-- ==== Sys2Proof/Word.lean ====
section
/-! DEFINITION. The widths of 00_scope.md R10: u8, u32, u64 and u128 as bit vectors that wrap. -/

namespace Sys2Proof

/-- `u8`. -/
abbrev Byte := BitVec 8

/-- `u32`. -/
abbrev Half := BitVec 32

/-- `u64`: registers, addresses, lanes and digests. -/
abbrev Word := BitVec 64

/-- `u128`: the exact 64 by 64 product of R130. -/
abbrev Wide := BitVec 128

end Sys2Proof
end

