-- ==== Sys2Proof/Config.lean ====
section
/-! DEFINITION. What the platform fixes (00_scope.md R7) and the free values: constants without a body, of which nothing
can be proved, applied to the number of a draw and a position within it. -/

namespace Sys2Proof

/-- A run of addresses `[start, start + size)`. -/
structure Region where
  start : Nat
  size : Nat
  deriving DecidableEq, Repr, Inhabited

/-- The parameters of 00_scope.md R7, fixed for a run, and the regions with read side effects of 20_memory.md R80.
A total predicate on the finitely many addresses is given by the regions where it is false. -/
structure Platform where
  /-- HAS_NARROW -/
  hasNarrow : Bool
  /-- HAS_WIDE -/
  hasWide : Bool
  /-- `64 - ADDR_WIDTH`, so that ADDR_WIDTH is one of 1..64 -/
  addrGap : Fin 64
  /-- BASE -/
  base : Word
  /-- where ReadOK is false -/
  readFaults : List Region
  /-- where WriteOK is false -/
  writeFaults : List Region
  /-- where a read has side effects (R80) -/
  sideEffects : List Region
  deriving DecidableEq, Repr, Inhabited

/-- The parameters of the machine at reset, all OPEN (R7). -/
opaque Config.platform : Platform

/-- Free 64-bit values: draw number, position. -/
opaque Config.freeWord : Nat → Nat → Word

/-- Free bytes: draw number, position. -/
opaque Config.freeByte : Nat → Nat → Byte

/-- Free bytes seen in the input buffer: draw number, offset. -/
opaque Config.freeInput : Nat → Nat → Byte

/-- Free bytes seen in the caller's secret: draw number, offset. -/
opaque Config.freeSecret : Nat → Nat → Byte

/-- Free choices between two values: draw number, position. -/
opaque Config.freeBit : Nat → Nat → Bool

end Sys2Proof
end

