-- ==== Sys2Proof/Machine/State.lean ====
section
/-! DEFINITION. The state of the engine (10_state.md R20), of the agents around it (46_commands.md R273) and of system
memory, as plain data, and the state after reset (70_reset_and_hazards.md R331). -/

namespace Sys2Proof.Machine

open Sys2Proof

/-- The engine phase, R38. -/
inductive Phase where
  | idle
  | busy
  deriving DecidableEq, Repr

/-- The mixing backends, 44_secret_and_backends.md R222. -/
inductive Backend where
  | scalar
  | narrow
  | wide
  deriving DecidableEq, Repr

/-- The values of CTRL.BACKEND, R25. -/
inductive BackendSel where
  | auto
  | scalar
  | narrow
  | wide
  deriving DecidableEq, Repr

/-- The error codes, 60_exceptions.md R290. -/
inductive ErrorCode where
  | none
  | illegalCmd
  | range
  | secretTooShort
  | readFault
  | writeFault
  deriving DecidableEq, Repr

/-- CTRL, R25: its reserved bits have no storage. -/
structure Ctrl where
  backend : BackendSel
  ie : Bool
  deriving DecidableEq, Repr

/-- STATUS, R26. BUSY is the phase; the reserved bits have no storage; BACKEND_USED is `none` until a completion. -/
structure StatusReg where
  done : Bool
  err : Bool
  ovr : Bool
  errcode : ErrorCode
  backendUsed : Option Backend
  deriving DecidableEq, Repr

/-- The latched command L, R39. -/
structure Latch where
  word : Word
  src : Word
  len : Word
  seed : Word
  secaddr : Word
  seclen : Word
  dst : Word
  backend : Backend
  deriving DecidableEq, Repr

/-- The accumulator ACC[0..7], R40. -/
abbrev Acc := Vector Word 8

/-- The derived-secret buffer CS[0..191], R41. -/
abbrev SecretBuf := Vector Byte 192

/-- System memory: the bytes that differ from `Memory.blank`, by rising address. -/
abbrev Memory := List Host.Cell

/-- What a host does in one atomic step (46_commands.md R273), at a system address. An access has any width: it is given by
its bytes, the one at the lowest address first (log 9). -/
inductive HostOp where
  /-- A read of `n` bytes of the register block or of system memory. -/
  | read (addr : Word) (n : Nat)
  /-- A write of bytes to the register block or to system memory. -/
  | write (addr : Word) (bytes : List Byte)
  /-- One round of `wait` (30_encoding.md R108): read STATUS, and go on once BUSY is 0. -/
  | waitIdle
  /-- Wait for the interrupt output (70_reset_and_hazards.md R344): go on once IRQ is 1. -/
  | waitIrq
  deriving DecidableEq, Repr

/-- A bus error a host got (10_state.md R22, 60_exceptions.md R305). -/
inductive BusError where
  /-- The register block refused an access of `n` bytes. -/
  | registerAccess (addr : Word) (n : Nat)
  /-- The platform refused a read of `n` bytes of system memory. -/
  | memoryRead (addr : Word) (n : Nat)
  /-- The platform refused a write of `n` bytes of system memory. -/
  | memoryWrite (addr : Word) (n : Nat)
  deriving DecidableEq, Repr

/-- A host agent: what it has still to do, the bytes its last read returned, the bus errors it got, oldest first. -/
structure HostAgent where
  ops : List HostOp
  value : List Byte
  errors : List BusError
  deriving DecidableEq, Repr

/-- Whose step comes next (R273): the engine's completion, the step of a host by its number, or the platform's reset. -/
inductive Turn where
  | engine
  | host (n : Nat)
  | reset
  deriving DecidableEq, Repr

structure State where
  /-- The parameters of R7; no step changes them. -/
  platform : Platform
  ctrl : Ctrl
  status : StatusReg
  srcAddr : Word
  len : Word
  seed : Word
  secretAddr : Word
  secretLen : Word
  dstAddr : Word
  resultLo : Word
  resultHi : Word
  phase : Phase
  latch : Latch
  acc : Acc
  cs : SecretBuf
  irq : Bool
  mem : Memory
  /-- The model's own: a host stored to a declared range of the running command (20_memory.md R88, R89). -/
  dutyBroken : Bool
  /-- The model's own: how many free values have been drawn. -/
  draws : Nat
  /-- The host agents (R273, R309). -/
  hosts : List HostAgent
  /-- The order of the next turns; any interleaving is some such list (R273, R302). -/
  schedule : List Turn
  deriving DecidableEq, Repr

/-- No step of this machine stops in a fault: every error of the engine is a completion with a code (60_exceptions.md
R297, R298), and a host's bus error is recorded in that host (R305). So there is no constructor, raised by nobody, and the
type itself says so; this is safe. -/
inductive Fault where
  deriving DecidableEq, Repr

/-- Refusals. -/
inductive Refusal where
  /-- Raised by an arm of `exec` whose instruction has no meaning yet; no arm is left so. It is safe: a machine that stops
  proves nothing false. -/
  | notModelled (mnemonic : String)
  deriving DecidableEq, Repr

/-- The registers, phase and interrupt output after reset (R331). L, ACC and CS are unspecified there and unobservable;
DESIGN CHOICE: zero, the scalar backend (log 2, unsafe). Memory lists nothing (log 1), no host and no turn is placed (log 4),
and the parameters are those of `Config.platform` (log 3). -/
def State.reset : State where
  platform := Config.platform
  ctrl := ⟨.auto, false⟩
  status := ⟨false, false, false, .none, none⟩
  srcAddr := 0#64
  len := 0#64
  seed := 0#64
  secretAddr := 0#64
  secretLen := 0#64
  dstAddr := 0#64
  resultLo := 0#64
  resultHi := 0#64
  phase := .idle
  latch := ⟨0#64, 0#64, 0#64, 0#64, 0#64, 0#64, 0#64, .scalar⟩
  acc := Vector.replicate 8 0#64
  cs := Vector.replicate 192 0#8
  irq := false
  mem := []
  dutyBroken := false
  draws := 0
  hosts := []
  schedule := []

end Sys2Proof.Machine
end

