-- ==== Sys2Proof/Machine/Primitives.lean ====
section
/-! DEFINITION. The primitive functions (40_primitives.md R120-R134). A byte buffer is a function from offsets (00_scope.md
R11); its length is passed beside it where a rule uses it. -/

namespace Sys2Proof.Machine

open Sys2Proof

/-! Endian decoder and encoder. -/

/-- The little-endian value of `n` bytes from offset `i`. -/
def valueLE (b : Nat → Byte) (i : Nat) : Nat → Nat
  | 0 => 0
  | n + 1 => (b i).toNat + 256 * valueLE b (i + 1) n

/-- The big-endian value of `n` bytes from offset `i`. -/
def valueBE (b : Nat → Byte) (i : Nat) : Nat → Nat
  | 0 => 0
  | n + 1 => (b i).toNat * 256 ^ n + valueBE b (i + 1) n

/-- R120. -/
def le32 (b : Nat → Byte) (i : Nat) : Half := BitVec.ofNat 32 (valueLE b i 4)

/-- R121. -/
def le64 (b : Nat → Byte) (i : Nat) : Word := BitVec.ofNat 64 (valueLE b i 8)

/-- Byte `k` of `encLE64(v)`, R122. -/
def encLE64 (v : Word) (k : Nat) : Byte := v.extractLsb' (8 * k) 8

/-- Byte `k` of the 4-byte analogue of R122 that R124 uses. -/
def encLE32 (v : Half) (k : Nat) : Byte := v.extractLsb' (8 * k) 8

/-- R123. -/
def be32 (b : Nat → Byte) (i : Nat) : Half := BitVec.ofNat 32 (valueBE b i 4)

/-- R123. -/
def be64 (b : Nat → Byte) (i : Nat) : Word := BitVec.ofNat 64 (valueBE b i 8)

/-- R124. -/
def swap32 (x : Half) : Half := be32 (encLE32 x) 0

/-- R125. -/
def swap64 (x : Word) : Word := be64 (encLE64 x) 0

/-! Rotate and shift. -/

/-- R126. -/
def rotl32 (x : Half) (r : Nat) : Half := (x <<< r) ||| (x >>> (32 - r))

/-- R127. -/
def rotl64 (x : Word) (r : Nat) : Word := (x <<< r) ||| (x >>> (64 - r))

/-- R128. -/
def xorshift64 (x : Word) (s : Nat) : Word := x ^^^ (x >>> s)

/-! Widths: `zext_64`, `trunc_32` and the high half (00_scope.md R10). -/

def zext64 (x : Half) : Word := x.zeroExtend 64

def trunc32 (x : Word) : Half := x.truncate 32

def byteToHalf (x : Byte) : Half := x.zeroExtend 32

def byteToWord (x : Byte) : Word := x.zeroExtend 64

/-- A length as the `u64` the formulas use (46_commands.md R268). -/
def lenWord (len : Nat) : Word := BitVec.ofNat 64 len

/-! Multiplies and fold. -/

/-- R129. -/
def mul32to64 (a b : Half) : Word := zext64 a * zext64 b

/-- The exact 128-bit product of R130. -/
def product128 (a b : Word) : Wide := a.zeroExtend 128 * b.zeroExtend 128

/-- R130: `(lo, hi)`. -/
def mul64to128 (a b : Word) : Word × Word :=
  ((product128 a b).extractLsb' 0 64, (product128 a b).extractLsb' 64 64)

/-- R131. -/
def fold64 (a b : Word) : Word := (mul64to128 a b).1 ^^^ (mul64to128 a b).2

/-! Avalanche functions. -/

/-- R132. -/
@[irreducible] def avalanche64 (h : Word) : Word :=
  let h := xorshift64 h 33 * prime64_2
  let h := xorshift64 h 29 * prime64_3
  xorshift64 h 32

/-- R133. -/
@[irreducible] def avalanche3 (h : Word) : Word :=
  let h := xorshift64 h 37 * aval3Mul
  xorshift64 h 32

end Sys2Proof.Machine
end

