-- ==== Sys2Proof/Machine/Backends.lean ====
section
/-! DEFINITION. The three mixing backends (44_secret_and_backends.md): accumulate512, scramble and deriveSecret of each, and
the backend selection. The scalar forms are the reference (R224); the vector forms are the lane decompositions of
R225-R228. -/

namespace Sys2Proof.Machine

open Sys2Proof

/-! Selection. -/

/-- `widest()`, R223. -/
def widestBackend (p : Platform) : Backend :=
  if p.hasWide then .wide else if p.hasNarrow then .narrow else .scalar

/-- `eb(b)`, R223: a request for an absent backend falls back to AUTO. -/
def effectiveBackend (p : Platform) : BackendSel → Backend
  | .auto => widestBackend p
  | .scalar => .scalar
  | .narrow => if p.hasNarrow then .narrow else widestBackend p
  | .wide => if p.hasWide then .wide else widestBackend p

/-- The backend is present (R222). -/
def backendPresent (p : Platform) : Backend → Bool
  | .scalar => true
  | .narrow => p.hasNarrow
  | .wide => p.hasWide

/-! Scalar forms. -/

/-- The neighbour `l ^ 1` of a lane, R192. -/
def lanePartner (l : Fin 8) : Fin 8 := l ^^^ 1

/-- The product `mul32to64(trunc_32(data_key), data_key >> 32)`, R192. -/
def keyProduct (k : Word) : Word := mul32to64 (trunc32 k) (trunc32 (k >>> 32))

/-- One turn of the loop of R192. -/
def accumulateLane (inp : Nat → Byte) (p : Nat) (sec : Nat → Byte) (q : Nat) (acc : Acc) (l : Fin 8) : Acc :=
  let dataVal := le64 inp (p + 8 * l.val)
  let dataKey := dataVal ^^^ le64 sec (q + 8 * l.val)
  let acc := acc.set (lanePartner l) (acc[lanePartner l] + dataVal)
  acc.set l (acc[l] + keyProduct dataKey)

/-- R192. -/
def accumulate512Scalar (acc : Acc) (inp : Nat → Byte) (p : Nat) (sec : Nat → Byte) (q : Nat) : Acc :=
  (List.finRange 8).foldl (accumulateLane inp p sec q) acc

/-- One turn of the loop of R194. -/
def scrambleLane (sec : Nat → Byte) (q : Nat) (acc : Acc) (l : Fin 8) : Acc :=
  let a := xorshift64 acc[l] 47 ^^^ le64 sec (q + 8 * l.val)
  acc.set l (a * zext64 prime32_1)

/-- R194. -/
def scrambleScalar (acc : Acc) (sec : Nat → Byte) (q : Nat) : Acc :=
  (List.finRange 8).foldl (scrambleLane sec q) acc

/-- Lane `k` of the derived secret before it is encoded, R220. -/
def derivedLane (seed : Word) (k : Nat) : Word :=
  if k % 2 = 0 then le64 kSecret (8 * k) + seed else le64 kSecret (8 * k) + (0#64 - seed)

/-- R220. -/
def deriveSecretScalar (seed : Word) : SecretBuf :=
  Vector.ofFn fun i => encLE64 (derivedLane seed (i.val / 8)) (i.val % 8)

/-! Vector forms. -/

/-- The data words `dv[j]` of a group of `n` lanes, R225. -/
def groupData (n : Nat) (inp : Nat → Byte) (p g : Nat) : Vector Word n :=
  Vector.ofFn fun j => le64 inp (p + 8 * (n * g + j.val))

/-- The products `prod[j]` of a group of `n` lanes, R225. -/
def groupProducts (n : Nat) (inp : Nat → Byte) (p : Nat) (sec : Nat → Byte) (q g : Nat) : Vector Word n :=
  Vector.ofFn fun j => keyProduct ((groupData n inp p g)[j] ^^^ le64 sec (q + 8 * (n * g + j.val)))

/-- `swp` of a 4-lane group, R225. -/
def swapWide (v : Vector Word 4) : Vector Word 4 := #v[v[1], v[0], v[3], v[2]]

/-- `swp` of a 2-lane group, R226. -/
def swapNarrow (v : Vector Word 2) : Vector Word 2 := #v[v[1], v[0]]

/-- Lane `4g + j`. -/
def wideLane (g : Fin 2) (j : Fin 4) : Fin 8 := ⟨4 * g.val + j.val, by omega⟩

/-- Lane `2g + j`. -/
def narrowLane (g : Fin 4) (j : Fin 2) : Fin 8 := ⟨2 * g.val + j.val, by omega⟩

/-- One 4-lane group of R225. -/
def accumulateWideGroup (inp : Nat → Byte) (p : Nat) (sec : Nat → Byte) (q : Nat) (acc : Acc) (g : Fin 2) : Acc :=
  let prod := groupProducts 4 inp p sec q g.val
  let swp := swapWide (groupData 4 inp p g.val)
  (List.finRange 4).foldl (fun a j => a.set (wideLane g j) (a[wideLane g j] + prod[j] + swp[j])) acc

/-- R225. -/
def accumulate512Wide (acc : Acc) (inp : Nat → Byte) (p : Nat) (sec : Nat → Byte) (q : Nat) : Acc :=
  (List.finRange 2).foldl (accumulateWideGroup inp p sec q) acc

/-- One 2-lane group of R226. -/
def accumulateNarrowGroup (inp : Nat → Byte) (p : Nat) (sec : Nat → Byte) (q : Nat) (acc : Acc) (g : Fin 4) : Acc :=
  let prod := groupProducts 2 inp p sec q g.val
  let swp := swapNarrow (groupData 2 inp p g.val)
  (List.finRange 2).foldl (fun a j => a.set (narrowLane g j) (a[narrowLane g j] + prod[j] + swp[j])) acc

/-- R226. -/
def accumulate512Narrow (acc : Acc) (inp : Nat → Byte) (p : Nat) (sec : Nat → Byte) (q : Nat) : Acc :=
  (List.finRange 4).foldl (accumulateNarrowGroup inp p sec q) acc

/-- One lane of R227: the multiply as two 32 by 32 products. -/
def scrambleVectorLane (sec : Nat → Byte) (q : Nat) (acc : Acc) (l : Fin 8) : Acc :=
  let a := acc[l] ^^^ (acc[l] >>> 47) ^^^ le64 sec (q + 8 * l.val)
  acc.set l (mul32to64 (trunc32 a) prime32_1 + (mul32to64 (trunc32 (a >>> 32)) prime32_1 <<< 32))

/-- R227 in groups of four lanes. -/
def scrambleWide (acc : Acc) (sec : Nat → Byte) (q : Nat) : Acc :=
  (List.finRange 2).foldl
    (fun a g => (List.finRange 4).foldl (fun a j => scrambleVectorLane sec q a (wideLane g j)) a) acc

/-- R227 in groups of two lanes. -/
def scrambleNarrow (acc : Acc) (sec : Nat → Byte) (q : Nat) : Acc :=
  (List.finRange 4).foldl
    (fun a g => (List.finRange 2).foldl (fun a j => scrambleVectorLane sec q a (narrowLane g j)) a) acc

/-- The vector `(seed, -seed, seed, -seed)` of R228. -/
def seedVectorWide (seed : Word) : Vector Word 4 := #v[seed, 0#64 - seed, seed, 0#64 - seed]

/-- The vector `(seed, -seed)` of R228. -/
def seedVectorNarrow (seed : Word) : Vector Word 2 := #v[seed, 0#64 - seed]

/-- One group of four lanes of R228. -/
def derivedWideGroup (seed : Word) (g : Nat) : Vector Word 4 :=
  Vector.ofFn fun j => le64 kSecret (8 * (4 * g + j.val)) + (seedVectorWide seed)[j]

/-- One group of two lanes of R228. -/
def derivedNarrowGroup (seed : Word) (g : Nat) : Vector Word 2 :=
  Vector.ofFn fun j => le64 kSecret (8 * (2 * g + j.val)) + (seedVectorNarrow seed)[j]

/-- R228 in groups of four lanes: 32 bytes a group. -/
def deriveSecretWide (seed : Word) : SecretBuf :=
  Vector.ofFn fun i => encLE64 ((derivedWideGroup seed (i.val / 32))[i.val % 32 / 8]'(by omega)) (i.val % 8)

/-- R228 in groups of two lanes: 16 bytes a group. -/
def deriveSecretNarrow (seed : Word) : SecretBuf :=
  Vector.ofFn fun i => encLE64 ((derivedNarrowGroup seed (i.val / 16))[i.val % 16 / 8]'(by omega)) (i.val % 8)

/-! The functions of a backend, R222. -/

def accumulate512 : Backend → Acc → (Nat → Byte) → Nat → (Nat → Byte) → Nat → Acc
  | .scalar => accumulate512Scalar
  | .narrow => accumulate512Narrow
  | .wide => accumulate512Wide

def scramble : Backend → Acc → (Nat → Byte) → Nat → Acc
  | .scalar => scrambleScalar
  | .narrow => scrambleNarrow
  | .wide => scrambleWide

def deriveSecret : Backend → Word → SecretBuf
  | .scalar => deriveSecretScalar
  | .narrow => deriveSecretNarrow
  | .wide => deriveSecretWide

/-- A derived secret as a buffer, `CS[i]`. -/
def secretAt (cs : SecretBuf) (i : Nat) : Byte := cs.getD i 0#8

end Sys2Proof.Machine
end

