-- ==== Sys2Proof/Machine/H128Medium.lean ====
section
/-! DEFINITION. XXH3-128 of 17 to 240 bytes (42_h128_medium.md R170-R174). -/

namespace Sys2Proof.Machine

open Sys2Proof

/-- R170. -/
def mix16B (inp : Nat → Byte) (i : Nat) (sec : Nat → Byte) (j : Nat) (seed : Word) : Word :=
  fold64 (le64 inp i ^^^ (le64 sec j + seed)) (le64 inp (i + 8) ^^^ (le64 sec (j + 8) - seed))

/-- R171. -/
def mix32B (acc : Word × Word) (inp : Nat → Byte) (i1 i2 : Nat) (sec : Nat → Byte) (j : Nat) (seed : Word) :
    Word × Word :=
  ((acc.1 + mix16B inp i1 sec j seed) ^^^ (le64 inp i2 + le64 inp (i2 + 8)),
   (acc.2 + mix16B inp i2 sec (j + 16) seed) ^^^ (le64 inp i1 + le64 inp (i1 + 8)))

/-- R172. -/
def combine128 (acc : Word × Word) (len : Nat) (seed : Word) : Word × Word :=
  (avalanche3 (acc.1 + acc.2),
   0#64 - avalanche3 (acc.1 * prime64_1 + acc.2 * prime64_4 + (lenWord len - seed) * prime64_2))

/-- R173: the deepest round first. -/
def h128Of17to128 (inp : Nat → Byte) (len : Nat) (sec : Nat → Byte) (seed : Word) : Word × Word :=
  let acc := (lenWord len * prime64_1, 0#64)
  let acc := if len > 96 then mix32B acc inp 48 (len - 64) sec 96 seed else acc
  let acc := if len > 64 then mix32B acc inp 32 (len - 48) sec 64 seed else acc
  let acc := if len > 32 then mix32B acc inp 16 (len - 32) sec 32 seed else acc
  let acc := mix32B acc inp 0 (len - 16) sec 0 seed
  combine128 acc len seed

/-- `n` rounds of R174 from round `i` on, the secret offset being `off` at the first and 32 more at each next. -/
def midRounds (inp : Nat → Byte) (sec : Nat → Byte) (seed : Word) : Nat → Nat → Nat → Word × Word → Word × Word
  | 0, _, _, acc => acc
  | n + 1, i, off, acc =>
    midRounds inp sec seed n (i + 1) (off + 32) (mix32B acc inp (32 * i) (32 * i + 16) sec off seed)

/-- R174. -/
def h128Of129to240 (inp : Nat → Byte) (len : Nat) (sec : Nat → Byte) (seed : Word) : Word × Word :=
  let nbRounds := len / 32
  let acc := midRounds inp sec seed 4 0 0 (lenWord len * prime64_1, 0#64)
  let acc := (avalanche3 acc.1, avalanche3 acc.2)
  let acc := midRounds inp sec seed (nbRounds - 4) 4 midsizeStartoffset acc
  let acc := mix32B acc inp (len - 16) (len - 32) sec (secretSizeMin - midsizeLastoffset - 16) (0#64 - seed)
  combine128 acc len seed

end Sys2Proof.Machine
end

