-- ==== Sys2Proof/Machine/H128Short.lean ====
section
/-! DEFINITION. XXH3-128 of 0 to 16 bytes (41_h128_short.md R151-R154). -/

namespace Sys2Proof.Machine

open Sys2Proof

/-- R151. -/
def h128Empty (sec : Nat → Byte) (seed : Word) : Word × Word :=
  let bitflipl := le64 sec 64 ^^^ le64 sec 72
  let bitfliph := le64 sec 80 ^^^ le64 sec 88
  (avalanche64 (seed ^^^ bitflipl), avalanche64 (seed ^^^ bitfliph))

/-- `combinedl` of R152. -/
def combined1to3 (inp : Nat → Byte) (len : Nat) : Half :=
  let c1 := byteToHalf (inp 0)
  let c2 := byteToHalf (inp (len / 2))
  let c3 := byteToHalf (inp (len - 1))
  (c1 <<< 16) ||| (c2 <<< 24) ||| (c3 <<< 0) ||| (BitVec.ofNat 32 len <<< 8)

/-- R152. -/
def h128Of1to3 (inp : Nat → Byte) (len : Nat) (sec : Nat → Byte) (seed : Word) : Word × Word :=
  let combinedl := combined1to3 inp len
  let combinedh := rotl32 (swap32 combinedl) 13
  let bitflipl := zext64 (le32 sec 0 ^^^ le32 sec 4) + seed
  let bitfliph := zext64 (le32 sec 8 ^^^ le32 sec 12) - seed
  (avalanche64 (zext64 combinedl ^^^ bitflipl), avalanche64 (zext64 combinedh ^^^ bitfliph))

/-- The product of R153 before the cross-mix. -/
def product4to8 (inp : Nat → Byte) (len : Nat) (sec : Nat → Byte) (seed : Word) : Word × Word :=
  let seed2 := seed ^^^ (zext64 (swap32 (trunc32 seed)) <<< 32)
  let input64 := zext64 (le32 inp 0) + (zext64 (le32 inp (len - 4)) <<< 32)
  let bitflip := (le64 sec 16 ^^^ le64 sec 24) + seed2
  mul64to128 (input64 ^^^ bitflip) (prime64_1 + (lenWord len <<< 2))

/-- R153: the high half takes the old low half, the low half then takes the new high half. -/
def h128Of4to8 (inp : Nat → Byte) (len : Nat) (sec : Nat → Byte) (seed : Word) : Word × Word :=
  let product := product4to8 inp len sec seed
  let hi := product.2 + (product.1 <<< 1)
  let lo := product.1 ^^^ (hi >>> 3)
  let lo := xorshift64 lo 35 * mul4To8
  (xorshift64 lo 28, avalanche3 hi)

/-- R154. -/
def h128Of9to16 (inp : Nat → Byte) (len : Nat) (sec : Nat → Byte) (seed : Word) : Word × Word :=
  let bitflipl := (le64 sec 32 ^^^ le64 sec 40) - seed
  let bitfliph := (le64 sec 48 ^^^ le64 sec 56) + seed
  let inputLo := le64 inp 0
  let inputHi := le64 inp (len - 8)
  let m := mul64to128 (inputLo ^^^ inputHi ^^^ bitflipl) prime64_1
  let mlo := m.1 + ((lenWord len - 1#64) <<< 54)
  let inputHi := inputHi ^^^ bitfliph
  let mhi := m.2 + inputHi + mul32to64 (trunc32 inputHi) (prime32_2 - 1#32)
  let mlo := mlo ^^^ swap64 mhi
  let h := mul64to128 mlo prime64_2
  (avalanche3 h.1, avalanche3 (h.2 + mhi * prime64_2))

end Sys2Proof.Machine
end

