-- ==== Sys2Proof/Machine/H128Long.lean ====
section
/-! DEFINITION. XXH3-128 of more than 240 bytes (43_h128_long.md R190-R199), with the functions of the command's backend, and
the length dispatcher (41_h128_short.md R150). -/

namespace Sys2Proof.Machine

open Sys2Proof

/-! Geometry, R190. -/

def nbStripesPerBlock (secLen : Nat) : Nat := (secLen - stripeLen) / secretConsumeRate

/-- `block_len`. DEDUCED: the product is exact and does not wrap at `2^64`, as R190's bound `block_len ≥ 576` for every
`S ≥ 136` needs; it matters for `S ≥ 2^61 + 64` alone (log 25). -/
def blockLen (secLen : Nat) : Nat := stripeLen * nbStripesPerBlock secLen

def nbBlocks (len secLen : Nat) : Nat := (len - 1) / blockLen secLen

def nbStripesLast (len secLen : Nat) : Nat := ((len - 1) - blockLen secLen * nbBlocks len secLen) / stripeLen

/-- R193: `n` stripes from input offset `p` and secret offset `q`; R193 starts a block at `q = 0`. -/
def accumulateFrom (b : Backend) (inp : Nat → Byte) (sec : Nat → Byte) : Nat → Nat → Nat → Acc → Acc
  | 0, _, _, acc => acc
  | n + 1, p, q, acc =>
    accumulateFrom b inp sec n (p + stripeLen) (q + secretConsumeRate) (accumulate512 b acc inp p sec q)

/-- R193. -/
def accumulate (b : Backend) (acc : Acc) (inp : Nat → Byte) (p : Nat) (sec : Nat → Byte) (n : Nat) : Acc :=
  accumulateFrom b inp sec n p 0 acc

/-- The full blocks of R195: `n` of them from input offset `p`. -/
def fullBlocks (b : Backend) (inp : Nat → Byte) (sec : Nat → Byte) (secLen : Nat) : Nat → Nat → Acc → Acc
  | 0, _, acc => acc
  | n + 1, p, acc =>
    fullBlocks b inp sec secLen n (p + blockLen secLen)
      (scramble b (accumulate b acc inp p sec (nbStripesPerBlock secLen)) sec (secLen - stripeLen))

/-- R195, from INIT_ACC (R191). -/
def longLoop (b : Backend) (inp : Nat → Byte) (len : Nat) (sec : Nat → Byte) (secLen : Nat) : Acc :=
  let acc := fullBlocks b inp sec secLen (nbBlocks len secLen) 0 initAcc
  let acc := accumulate b acc inp (nbBlocks len secLen * blockLen secLen) sec (nbStripesLast len secLen)
  accumulate512 b acc inp (len - stripeLen) sec (secLen - stripeLen - secretLastaccStart)

/-- R196. -/
def mix2Accs (a0 a1 : Word) (sec : Nat → Byte) (q : Nat) : Word :=
  fold64 (a0 ^^^ le64 sec q) (a1 ^^^ le64 sec (q + 8))

/-- R197. -/
def mergeAccs (acc : Acc) (sec : Nat → Byte) (q : Nat) (start : Word) : Word :=
  avalanche3 (start + mix2Accs acc[0] acc[1] sec q + mix2Accs acc[2] acc[3] sec (q + 16) +
    mix2Accs acc[4] acc[5] sec (q + 32) + mix2Accs acc[6] acc[7] sec (q + 48))

/-- R198. -/
def hashLong128 (b : Backend) (inp : Nat → Byte) (len : Nat) (sec : Nat → Byte) (secLen : Nat) : Word × Word :=
  let acc := longLoop b inp len sec secLen
  (mergeAccs acc sec secretMergeaccsStart (lenWord len * prime64_1),
   mergeAccs acc sec (secLen - stripeLen - secretMergeaccsStart) (~~~(lenWord len * prime64_2)))

/-- R199: with a nonzero seed the secret is derived from the default one and the caller's is not used. -/
def h128Long (b : Backend) (inp : Nat → Byte) (len : Nat) (sec : Nat → Byte) (secLen : Nat) (seed : Word) :
    Word × Word :=
  if seed = 0#64 then hashLong128 b inp len sec secLen
  else hashLong128 b inp len (secretAt (deriveSecret b seed)) secretDefaultSize

/-- R150. -/
@[irreducible] def h128 (b : Backend) (inp : Nat → Byte) (len : Nat) (sec : Nat → Byte) (secLen : Nat) (seed : Word) : Word × Word :=
  if len ≤ 16 then
    if len > 8 then h128Of9to16 inp len sec seed
    else if len ≥ 4 then h128Of4to8 inp len sec seed
    else if len > 0 then h128Of1to3 inp len sec seed
    else h128Empty sec seed
  else if len ≤ 128 then h128Of17to128 inp len sec seed
  else if len ≤ 240 then h128Of129to240 inp len sec seed
  else h128Long b inp len sec secLen seed

end Sys2Proof.Machine
end

