-- ==== Sys2Proof/Machine/Hash64.lean ====
section
/-! DEFINITION. H64, which is XXH64 (45_hash64.md R240-R251; 90_conflicts.md C1). -/

namespace Sys2Proof.Machine

open Sys2Proof

/-- R240. -/
def round64 (acc w : Word) : Word := rotl64 (acc + w * prime64_2) 31 * prime64_1

/-- R241. -/
def mergeRound64 (h v : Word) : Word := (h ^^^ round64 0#64 v) * prime64_1 + prime64_4

/-- The lanes `v1` to `v4`. -/
structure Lanes64 where
  v1 : Word
  v2 : Word
  v3 : Word
  v4 : Word
  deriving DecidableEq, Repr

/-- R242. -/
def lanesInit (seed : Word) : Lanes64 :=
  ⟨seed + prime64_1 + prime64_2, seed + prime64_2, seed, seed - prime64_1⟩

/-- One 32-byte iteration of R243. -/
def bulkRound (inp : Nat → Byte) (p : Nat) (v : Lanes64) : Lanes64 :=
  ⟨round64 v.v1 (le64 inp p), round64 v.v2 (le64 inp (p + 8)), round64 v.v3 (le64 inp (p + 16)),
   round64 v.v4 (le64 inp (p + 24))⟩

/-- `n` iterations of R243 from offset `p`. -/
def bulkLoop (inp : Nat → Byte) : Nat → Nat → Lanes64 → Lanes64
  | 0, _, v => v
  | n + 1, p, v => bulkLoop inp n (p + 32) (bulkRound inp p v)

/-- The convergence and merge rounds of R243. -/
def bulkMerge (v : Lanes64) : Word :=
  let h := rotl64 v.v1 1 + rotl64 v.v2 7 + rotl64 v.v3 12 + rotl64 v.v4 18
  mergeRound64 (mergeRound64 (mergeRound64 (mergeRound64 h v.v1) v.v2) v.v3) v.v4

/-- R243: `h` and `p = 32 * floor(len / 32)`. -/
def bulk64 (inp : Nat → Byte) (len : Nat) (seed : Word) : Word × Nat :=
  (bulkMerge (bulkLoop inp (len / 32) 0 (lanesInit seed)), 32 * (len / 32))

/-- An 8-byte step of R246. -/
def tailStep8 (inp : Nat → Byte) (p : Nat) (h : Word) : Word :=
  rotl64 (h ^^^ round64 0#64 (le64 inp p)) 27 * prime64_1 + prime64_4

/-- The 4-byte step of R246. -/
def tailStep4 (inp : Nat → Byte) (p : Nat) (h : Word) : Word :=
  rotl64 (h ^^^ (zext64 (le32 inp p) * prime64_1)) 23 * prime64_2 + prime64_3

/-- A single-byte step of R246. -/
def tailStep1 (inp : Nat → Byte) (p : Nat) (h : Word) : Word :=
  rotl64 (h ^^^ (byteToWord (inp p) * prime64_5)) 11 * prime64_1

/-- `n` of the 8-byte steps. -/
def tailLoop8 (inp : Nat → Byte) : Nat → Nat → Word → Word
  | 0, _, h => h
  | n + 1, p, h => tailLoop8 inp n (p + 8) (tailStep8 inp p h)

/-- `n` of the single-byte steps. -/
def tailLoop1 (inp : Nat → Byte) : Nat → Nat → Word → Word
  | 0, _, h => h
  | n + 1, p, h => tailLoop1 inp n (p + 1) (tailStep1 inp p h)

/-- R246: `r = len - p` bytes remain, `r = 8a + 4b + c`. -/
def tail64 (h : Word) (inp : Nat → Byte) (len p : Nat) : Word :=
  let r := len - p
  let h := tailLoop8 inp (r / 8) p h
  let p := p + 8 * (r / 8)
  let h := if r % 8 ≥ 4 then tailStep4 inp p h else h
  let p := if r % 8 ≥ 4 then p + 4 else p
  tailLoop1 inp (r % 4) p h

/-- R251, with R244 and R245. -/
@[irreducible] def h64 (inp : Nat → Byte) (len : Nat) (seed : Word) : Word :=
  let start := if len ≥ 32 then bulk64 inp len seed else (seed + prime64_5, 0)
  avalanche64 (tail64 (start.1 + lenWord len) inp len start.2)

end Sys2Proof.Machine
end

