-- ==== Sys2Proof/Syntax.lean ====
section
/-! DEFINITION. The commands of the engine (30_encoding.md R101), one constructor per row of the opcode table. A command
word holds no operand (R104): every operand is read from the latched command, so no constructor takes an argument. -/

namespace Sys2Proof

inductive Instr where
  /-- HASH64, word 0x1, 46_commands.md R263. -/
  | hash64
  /-- HASH128, word 0x2, R264. -/
  | hash128
  /-- HASH128.S, word 0x12, R265. -/
  | hash128s
  /-- DERIVE, word 0x3, R266. -/
  | derive
  deriving DecidableEq, Repr, Inhabited

end Sys2Proof
end

