-- ==== Sys2Proof/WellFormed.lean ====
section
/-! DEFINITION. The fields of the one command format CMD64 (30_encoding.md R100) and the checks that make their values a
legal command (R101, R103). -/

namespace Sys2Proof

/-- The fields of a command word (R100). -/
structure CmdFields where
  /-- bits 3:0 -/
  op : BitVec 4
  /-- bit 4 -/
  sec : BitVec 1
  /-- bits 63:5 -/
  rsvd : BitVec 59
  deriving DecidableEq, Repr

/-- Why a command word is illegal: the cases R103 lists, and the byte sequence that is not one 64-bit word (R100, R22). -/
inductive IllegalReason where
  /-- OP is 0x0 or 0x4..0xF. -/
  | opcode
  /-- SEC is 1 and OP is not 0x2. -/
  | secretSelect
  /-- A bit of RSVD is set. -/
  | reservedBits
  /-- The bytes are not the eight bytes of one command word. -/
  | notOneWord
  deriving DecidableEq, Repr

/-- OP names one of the three operations. -/
def CmdFields.opOk (f : CmdFields) : Bool := f.op == 1#4 || f.op == 2#4 || f.op == 3#4

/-- SEC is legal as 1 only with OP = 0x2 (R100). -/
def CmdFields.secOk (f : CmdFields) : Bool := f.sec == 0#1 || f.op == 2#4

/-- RSVD must be zero (R100). -/
def CmdFields.rsvdOk (f : CmdFields) : Bool := f.rsvd == 0#59

/-- The first check that fails, if any. -/
def CmdFields.problem (f : CmdFields) : Option IllegalReason :=
  if !f.rsvdOk then some .reservedBits
  else if !f.opOk then some .opcode
  else if !f.secOk then some .secretSelect
  else none

/-- A legal command's fields. -/
def CmdFields.wellFormed (f : CmdFields) : Bool := f.rsvdOk && f.opOk && f.secOk

/-- The OP and SEC fields of each command (R101). -/
def Instr.fields : Instr → CmdFields
  | .hash64 => ⟨1#4, 0#1, 0#59⟩
  | .hash128 => ⟨2#4, 0#1, 0#59⟩
  | .hash128s => ⟨2#4, 1#1, 0#59⟩
  | .derive => ⟨3#4, 0#1, 0#59⟩

/-- An instruction is well-formed when its fields are. -/
def Instr.wellFormed (i : Instr) : Bool := i.fields.wellFormed

end Sys2Proof
end

