-- ==== Sys2Proof/Decode.lean ====
section
/-! DEFINITION. Decoding and encoding of command words (30_encoding.md R100-R105). -/

namespace Sys2Proof

/-- What the decoder answers: R102 is total, and what is not a command is ILLEGAL with its reason. -/
inductive Decoded where
  | command (i : Instr)
  | illegal (r : IllegalReason)
  deriving DecidableEq, Repr

/-- The fields of a word (R100). -/
def fieldsOf (w : Word) : CmdFields :=
  ⟨w.extractLsb' 0 4, w.extractLsb' 4 1, w.extractLsb' 5 59⟩

/-- The word with given fields (R100). -/
def wordOf (f : CmdFields) : Word :=
  f.op.zeroExtend 64 ||| (f.sec.zeroExtend 64 <<< 4) ||| (f.rsvd.zeroExtend 64 <<< 5)

/-- Which clause of R103 makes a word illegal; used only for words that are not commands. -/
def illegalReason (w : Word) : IllegalReason :=
  if (fieldsOf w).rsvdOk then
    if (fieldsOf w).opOk then .secretSelect else .opcode
  else .reservedBits

/-- R102: all 64 bits are compared. -/
def decode (w : Word) : Decoded :=
  if w = 0x1#64 then .command .hash64
  else if w = 0x2#64 then .command .hash128
  else if w = 0x12#64 then .command .hash128s
  else if w = 0x3#64 then .command .derive
  else .illegal (illegalReason w)

/-- The eight bus bytes of a register value, the byte at the lowest address first: `value[8k+7:8k]` is byte `k`
(10_state.md R22). -/
def busBytes (w : Word) : List Byte :=
  (List.range 8).map fun k => w.extractLsb' (8 * k) 8

/-- The value of a sequence of bus bytes, little-endian. -/
def busValue : List Byte → Nat
  | [] => 0
  | b :: rest => b.toNat + 256 * busValue rest

/-- The register value of the eight bytes of a bus write (10_state.md R22). -/
def busWord (bs : List Byte) : Word := BitVec.ofNat 64 (busValue bs)

/-- Decoding of the bytes of a CMD write: one command is one 64-bit word (R100, R105), so any other number of bytes is
rejected. -/
def decodeBytes (bs : List Byte) : Decoded :=
  if bs.length = 8 then decode (busWord bs) else .illegal .notOneWord

/-- The command of a decoded word, if it is one. -/
def Decoded.instr? : Decoded → Option Instr
  | .command i => some i
  | .illegal _ => none

/-- The instruction read from a table word: the word is laid out as the bytes of a CMD write and decoded. -/
def decodeTableWord (nbits w : Nat) : Option Instr :=
  (decodeBytes (busBytes (BitVec.ofNat 64 (w % 2 ^ nbits)))).instr?

/-- The command word of an instruction (R101), built from its fields. -/
def encode (i : Instr) : Word := wordOf i.fields

/-- The bytes of the CMD write that issues an instruction. -/
def encodeBytes (i : Instr) : List Byte := busBytes (encode i)

/-! The words of R101, written out bit by bit from the format of R100 (RSVD, SEC, OP). -/

theorem decode_hash64_word : decode (0#59 ++ (0b0#1 ++ 0b0001#4) : BitVec (59 + (1 + 4))) = .command .hash64 := by decide

theorem decode_hash128_word : decode (0#59 ++ (0b0#1 ++ 0b0010#4) : BitVec (59 + (1 + 4))) = .command .hash128 := by decide

theorem decode_hash128s_word : decode (0#59 ++ (0b1#1 ++ 0b0010#4) : BitVec (59 + (1 + 4))) = .command .hash128s := by decide

theorem decode_derive_word : decode (0#59 ++ (0b0#1 ++ 0b0011#4) : BitVec (59 + (1 + 4))) = .command .derive := by decide

end Sys2Proof
end

