-- ==== Sys2Proof/Machine/Flags.lean ====
section
/-! DEFINITION. The words and the flag rules of CTRL (10_state.md R25), STATUS (R26), CAPS (R24), ID (R23) and the
interrupt output (R48). -/

namespace Sys2Proof.Machine

open Sys2Proof

/-- The codes of R290. -/
def errorByte : ErrorCode → Byte
  | .none => 0x00#8
  | .illegalCmd => 0x01#8
  | .range => 0x02#8
  | .secretTooShort => 0x03#8
  | .readFault => 0x04#8
  | .writeFault => 0x05#8

/-- The codes of R222. -/
def backendBits : Backend → BitVec 2
  | .scalar => 1#2
  | .narrow => 2#2
  | .wide => 3#2

/-- BACKEND_USED: 0 if none has completed since reset (R26). -/
def backendUsedBits : Option Backend → BitVec 2
  | none => 0#2
  | some b => backendBits b

/-- The values of CTRL.BACKEND (R25). -/
def selBits : BackendSel → BitVec 2
  | .auto => 0#2
  | .scalar => 1#2
  | .narrow => 2#2
  | .wide => 3#2

/-- The values of CTRL.BACKEND (R25): all four are legal. -/
def selOfBits (b : BitVec 2) : BackendSel :=
  if b = 0#2 then .auto else if b = 1#2 then .scalar else if b = 2#2 then .narrow else .wide

/-- A field placed with its bit 0 at bit `k` of a register value. -/
def fieldAt (k : Nat) {n : Nat} (x : BitVec n) : Word := x.zeroExtend 64 <<< k

/-- A one-bit field. -/
def flagAt (k : Nat) (b : Bool) : Word := fieldAt k (BitVec.ofBool b)

/-- The value CTRL reads as: reserved bits are 0 (R25). -/
def ctrlWord (c : Ctrl) : Word := fieldAt 0 (selBits c.backend) ||| flagAt 8 c.ie

/-- What a write of a value leaves in CTRL (R25). -/
def ctrlOfWord (w : Word) : Ctrl := ⟨selOfBits (w.extractLsb' 0 2), w.getLsbD 8⟩

/-- The value STATUS reads as (R26), with BUSY the phase (R38); its reserved bits are 0. -/
def statusWord (busy : Bool) (s : StatusReg) : Word :=
  flagAt 0 busy ||| flagAt 1 s.done ||| flagAt 2 s.err ||| flagAt 3 s.ovr ||| fieldAt 8 (errorByte s.errcode) |||
    fieldAt 16 (backendUsedBits s.backendUsed)

/-- The value of ID (R23). -/
def idWord : Word := 0x5858483300000001#64

/-- The value of CAPS (R24). -/
def capsWord (p : Platform) : Word := flagAt 0 true ||| flagAt 1 p.hasNarrow ||| flagAt 2 p.hasWide

/-- The effect of writing a value to STATUS (R26): ones in bits 1, 2 and 3 clear DONE, ERR with ERRCODE, and OVR. -/
def statusW1C (s : StatusReg) (w : Word) : StatusReg where
  done := s.done && !w.getLsbD 1
  err := s.err && !w.getLsbD 2
  ovr := s.ovr && !w.getLsbD 3
  errcode := if w.getLsbD 2 then .none else s.errcode
  backendUsed := s.backendUsed

/-- STATUS at issue (46_commands.md R260): DONE, ERR and ERRCODE are cleared, OVR and BACKEND_USED kept. -/
def statusIssue (s : StatusReg) : StatusReg where
  done := false
  err := false
  ovr := s.ovr
  errcode := .none
  backendUsed := s.backendUsed

/-- STATUS after a dropped CMD write (R261). -/
def statusOverrun (s : StatusReg) : StatusReg := { s with ovr := true }

/-- STATUS at completion (R262, 60_exceptions.md R297). -/
def statusComplete (s : StatusReg) (code : ErrorCode) (b : Backend) : StatusReg where
  done := true
  err := code != .none
  ovr := s.ovr
  errcode := code
  backendUsed := some b

/-- `CTRL.IE & STATUS.DONE` (R48). -/
def irqLevel (c : Ctrl) (s : StatusReg) : Bool := c.ie && s.done

end Sys2Proof.Machine
end

