-- ==== Sys2Proof/Machine/Platform.lean ====
section
/-! DEFINITION. What the parameters of the platform say of an address (00_scope.md R7): regions, the address space, ReadOK and
WriteOK, the register block, and the bytes that read as any byte. -/

namespace Sys2Proof

/-- The address lies in the region. -/
def Region.contains (r : Region) (a : Nat) : Bool := decide (r.start ≤ a) && decide (a < r.start + r.size)

/-- The two regions share an address. -/
def Region.meets (r q : Region) : Bool :=
  decide (0 < r.size) && decide (0 < q.size) && decide (r.start < q.start + q.size) && decide (q.start < r.start + r.size)

/-- ADDR_WIDTH, 1..64. -/
def Platform.addrWidth (p : Platform) : Nat := 64 - p.addrGap.val

/-- `2^ADDR_WIDTH`. -/
def Platform.addrLimit (p : Platform) : Nat := 2 ^ p.addrWidth

/-- The address is in a region of the list. -/
def inRegions (rs : List Region) (a : Nat) : Bool := rs.any fun r => r.contains a

/-- ReadOK(a). -/
def Platform.readOK (p : Platform) (a : Nat) : Bool := !inRegions p.readFaults a

/-- WriteOK(a). -/
def Platform.writeOK (p : Platform) (a : Nat) : Bool := !inRegions p.writeFaults a

/-- The register block `[BASE, BASE + 256)` (10_state.md R21). DESIGN CHOICE: the block does not wrap, so of a BASE above
`2^64 - 256` the slots past the top are no addresses (log 21). -/
def Platform.block (p : Platform) : Region := ⟨p.base.toNat, 256⟩

/-- A read of the address gives any byte: a region with read side effects (R80, I7) or the engine's own register block
(20_memory.md R71, I8). -/
def Platform.volatile (p : Platform) (a : Nat) : Bool := inRegions p.sideEffects a || p.block.contains a

end Sys2Proof
end

