-- ==== Sys2Proof/Machine/Operands.lean ====
section
/-! DEFINITION. The operands of the commands: the declared ranges read from the latched command (20_memory.md R73,
30_encoding.md R104), their checks (R83-R85), and the error code the checks give (60_exceptions.md R291). -/

namespace Sys2Proof.Machine

open Sys2Proof

/-- `IR = [L.src, L.src + L.len)`, R73. -/
def inputRange (l : Latch) : Region := ⟨l.src.toNat, l.len.toNat⟩

/-- `SR = [L.secaddr, L.secaddr + L.seclen)`, R73. -/
def secretRange (l : Latch) : Region := ⟨l.secaddr.toNat, l.seclen.toNat⟩

/-- `WR = [L.dst, L.dst + 192)`, R73. -/
def writeRange (l : Latch) : Region := ⟨l.dst.toNat, secretDefaultSize⟩

/-- The declared read ranges of a command (R73). -/
def readRanges (l : Latch) : Instr → List Region
  | .hash64 => [inputRange l]
  | .hash128 => [inputRange l]
  | .hash128s => [inputRange l, secretRange l]
  | .derive => []

/-- The declared write ranges of a command (R73). -/
def writeRanges (l : Latch) : Instr → List Region
  | .hash64 => []
  | .hash128 => []
  | .hash128s => []
  | .derive => [writeRange l]

/-- Every declared range of a command. -/
def declaredRanges (l : Latch) (i : Instr) : List Region := readRanges l i ++ writeRanges l i

/-- R83: the sum is exact. -/
def inRange (p : Platform) (r : Region) : Bool := decide (r.size = 0) || decide (r.start + r.size ≤ p.addrLimit)

/-- No byte of the range lies in a region of the list: the probe of R85 in one comparison a region. -/
def clearOf (rs : List Region) (r : Region) : Bool := rs.all fun q => !r.meets q

/-- The read probe of R85. -/
def rangeReadOK (p : Platform) (r : Region) : Bool := clearOf p.readFaults r

/-- The write probe of R85. -/
def rangeWriteOK (p : Platform) (r : Region) : Bool := clearOf p.writeFaults r

/-- The caller's secret is below 136 bytes (60_exceptions.md R293). -/
def secretTooShort (l : Latch) : Instr → Bool
  | .hash64 => false
  | .hash128 => false
  | .hash128s => decide (l.seclen.toNat < secretSizeMin)
  | .derive => false

/-- The checks of a legal command in the order of R291; ILLEGAL_CMD comes before them, for words that are no command. -/
def commandCode (p : Platform) (l : Latch) (i : Instr) : ErrorCode :=
  if secretTooShort l i then .secretTooShort
  else if !(declaredRanges l i).all (inRange p) then .range
  else if !(readRanges l i).all (rangeReadOK p) then .readFault
  else if !(writeRanges l i).all (rangeWriteOK p) then .writeFault
  else .none

end Sys2Proof.Machine
end

