-- ==== Sys2Proof/Machine/Ops.lean ====
section
/-! DEFINITION. The named operations over memory (20_memory.md) and over the engine: issue (46_commands.md R260), the dropped
CMD write (R261), completion with or without an error (R262, 60_exceptions.md R297: what this engine has in the place of an
exception entry; it has no return, R303), and reset (70_reset_and_hazards.md R331, R332). -/

namespace Sys2Proof.Machine

open Sys2Proof

/-! System memory. -/

/-- What an unlisted address reads as. DESIGN CHOICE (log 1, unsafe): the spec leaves the contents to the platform. -/
def Memory.blank : Byte := 0#8

/-- `MemRead(a, 1)`, R72. -/
def Memory.read : Memory → Nat → Byte
  | [], _ => Memory.blank
  | c :: rest, a => if c.1 = a then c.2 else Memory.read rest a

/-- `MemWrite(a, 1, v)`, R72, in canonical form. -/
def Memory.write : Memory → Nat → Byte → Memory
  | [], a, v => if v = Memory.blank then [] else [(a, v)]
  | c :: rest, a, v =>
    if a < c.1 then (if v = Memory.blank then c :: rest else (a, v) :: c :: rest)
    else if a = c.1 then (if v = Memory.blank then rest else (a, v) :: rest)
    else c :: Memory.write rest a v

/-- The canonical form: addresses strictly rise and no byte is one an unlisted address reads as. -/
abbrev Memory.wf (m : Memory) : Prop := m.Pairwise (fun c d => c.1 < d.1) ∧ ∀ c ∈ m, c.2 ≠ Memory.blank

/-- A byte written through the bus: outside the address space there is nothing to write, and the engine's bus master never
reaches the engine's registers (R70, R71). DESIGN CHOICE: a byte that falls in the register block goes nowhere, of a DERIVE
(log 18) as of a script's memory set-up (log 23). -/
def busWriteByte (p : Platform) (m : Memory) (a : Nat) (v : Byte) : Memory :=
  if p.block.contains a || decide (p.addrLimit ≤ a) then m else Memory.write m a v

/-- `n` bytes of `f` written from address `a` on. -/
def busWriteBytes (p : Platform) (a : Nat) (f : Nat → Byte) : Nat → Memory → Memory
  | 0, m => m
  | n + 1, m => busWriteByte p (busWriteBytes p a f n m) (a + n) (f n)

/-- A list of bytes written from address `a` on. -/
def busWriteList (p : Platform) (a : Nat) (bytes : List Byte) (m : Memory) : Memory :=
  busWriteBytes p a (fun k => bytes.getD k 0#8) bytes.length m

/-! Buffers of the running command. -/

/-- Byte `k` of a read range as the engine sees it: in a region with read side effects or in the register block it is any
byte (`free`), else the byte stored (R71, R80, I7, I8). -/
def State.rangeByte (s : State) (r : Region) (free : Nat → Byte) (k : Nat) : Byte :=
  if decide (k < r.size) && s.platform.volatile (r.start + k) then free k else Memory.read s.mem (r.start + k)

/-- `In[i] = MemRead(L.src + i, 1)`, R74. DESIGN CHOICE: a free byte is one for each offset, however often the engine reads
it (log 10). -/
def State.input (s : State) : Nat → Byte := s.rangeByte (inputRange s.latch) (Config.freeInput s.draws)

/-- `Sec[i] = MemRead(L.secaddr + i, 1)`, R75. DESIGN CHOICE: a free byte is one for each offset (log 10). -/
def State.callerSecret (s : State) : Nat → Byte := s.rangeByte (secretRange s.latch) (Config.freeSecret s.draws)

/-- `CS` of a DERIVE, as the command's backend computes it (R266). -/
def State.derivedSecret (s : State) : SecretBuf := deriveSecret s.latch.backend s.latch.seed

/-- The command whose word is latched (R262). -/
def State.fetch (s : State) : Decoded := decode s.latch.word

/-- The error code of a legal command at this state (R291). -/
def State.errorCode (s : State) (i : Instr) : ErrorCode := commandCode s.platform s.latch i

/-! Interrupt output. -/

/-- IRQ recomputed (R48). -/
def State.syncIrq (s : State) : State := { s with irq := irqLevel s.ctrl s.status }

/-! Issue and the dropped CMD write. -/

/-- R39: what issue latches. -/
def State.latched (s : State) (w : Word) : Latch where
  word := w
  src := s.srcAddr
  len := s.len
  seed := s.seed
  secaddr := s.secretAddr
  seclen := s.secretLen
  dst := s.dstAddr
  backend := effectiveBackend s.platform s.ctrl.backend

/-- R260. -/
def State.issue (s : State) (w : Word) : State :=
  State.syncIrq { s with
    latch := s.latched w
    status := statusIssue s.status
    phase := .busy
    dutyBroken := false }

/-- R261: the word is dropped. -/
def State.overrun (s : State) : State := { s with status := statusOverrun s.status }

/-! Unspecified scratch (93_implementation_defined.md I10). -/

/-- L while IDLE: any value (R39). -/
def latchUnspecified (d : Nat) : Latch where
  word := Config.freeWord d 8
  src := Config.freeWord d 9
  len := Config.freeWord d 10
  seed := Config.freeWord d 11
  secaddr := Config.freeWord d 12
  seclen := Config.freeWord d 13
  dst := Config.freeWord d 14
  backend := if Config.freeBit d 0 then .scalar else if Config.freeBit d 1 then .narrow else .wide

/-- ACC between commands: any value (R40). -/
def accUnspecified (d : Nat) : Acc := Vector.ofFn fun l => Config.freeWord d (16 + l.val)

/-- CS between commands: any value (R41). -/
def secretUnspecified (d : Nat) : SecretBuf := Vector.ofFn fun i => Config.freeByte d (192 + i.val)

/-! Completion. -/

/-- R262 and R297, after the results and the memory of the command are in place: STATUS, the phase and IRQ change, and the
scratch L, ACC, CS is unspecified again. -/
def State.complete (s : State) (code : ErrorCode) : State :=
  State.syncIrq { s with
    status := statusComplete s.status code s.latch.backend
    phase := .idle
    latch := latchUnspecified s.draws
    acc := accUnspecified s.draws
    cs := secretUnspecified s.draws
    dutyBroken := false
    draws := s.draws + 1 }

/-- The results of a completion: a digest on success (R262), the old values on an error (R297), and any values if the host
broke its duty (20_memory.md R89). -/
def State.deliver (s : State) (code : ErrorCode) (lo hi : Word) : State :=
  if s.dutyBroken then { s with resultLo := Config.freeWord s.draws 0, resultHi := Config.freeWord s.draws 1 }
  else if code = .none then { s with resultLo := lo, resultHi := hi }
  else s

/-! The write range of DERIVE. -/

/-- The bytes of WR become those of `f`. -/
def State.writeWindow (s : State) (f : Nat → Byte) : State :=
  { s with mem := busWriteBytes s.platform s.latch.dst.toNat f secretDefaultSize s.mem }

/-- A draw between the old byte of WR and the derived one (I2, I3). -/
def State.oldOrDerived (s : State) (i : Nat) : Byte :=
  if Config.freeBit s.draws (8 + i) then secretAt s.derivedSecret i else Memory.read s.mem (s.latch.dst.toNat + i)

/-- A byte of WR after a WRITE_FAULT (60_exceptions.md R296): a draw where WriteOK holds, any byte where it does not. -/
def State.faultedByte (s : State) (i : Nat) : Byte :=
  if s.platform.writeOK (s.latch.dst.toNat + i) then s.oldOrDerived i else Config.freeByte s.draws i

/-- The memory effect of a DERIVE that completes with a code (R266, R296, R297), or any bytes if the host broke its duty
(R89). -/
def State.deriveWrites (s : State) (code : ErrorCode) : State :=
  if s.dutyBroken then s.writeWindow (Config.freeByte s.draws)
  else match code with
    | .none => s.writeWindow (secretAt s.derivedSecret)
    | .writeFault => s.writeWindow s.faultedByte
    | .illegalCmd => s
    | .range => s
    | .secretTooShort => s
    | .readFault => s

/-- A DERIVE is running and its WR is in range, so the engine may have written some of WR already (R83, R332, R339). -/
def State.deriveInFlight (s : State) : Bool :=
  s.phase == .busy && s.fetch == .command .derive && inRange s.platform (writeRange s.latch)

/-- The byte of WR of a running DERIVE as it is seen before the completion (R332, R339, R89). -/
def State.inFlightByte (s : State) (i : Nat) : Byte :=
  if s.dutyBroken then Config.freeByte s.draws i else s.oldOrDerived i

/-! Reset. -/

/-- The memory a reset leaves (R331, R332): unchanged, but for the WR of an aborted DERIVE. -/
def State.abortedMemory (s : State) : Memory :=
  if s.deriveInFlight then (s.writeWindow s.inFlightByte).mem else s.mem

/-- The reset step (R331, R332). -/
def State.resetEngine (s : State) : State :=
  { State.reset with
    platform := s.platform
    mem := s.abortedMemory
    draws := s.draws + 1
    hosts := s.hosts
    schedule := s.schedule }

end Sys2Proof.Machine
end

