-- ==== Sys2Proof/Machine/Commands.lean ====
section
/-! DEFINITION. The meanings of the commands (46_commands.md R263-R267): each is the completion step of R262 for that
command, over the operations of Ops. -/

namespace Sys2Proof.Machine

open Sys2Proof

/-- HASH64, R263: `RESULT_LO <- H64`, `RESULT_HI <- 0`. -/
def execHash64 (s : State) : Host.Outcome State Fault Refusal :=
  let code := s.errorCode .hash64
  let digest := h64 s.input s.latch.len.toNat s.latch.seed
  .next ((s.deliver code digest 0#64).complete code)

/-- HASH128, R264: the ROM secret, 192 bytes. -/
def execHash128 (s : State) : Host.Outcome State Fault Refusal :=
  let code := s.errorCode .hash128
  let digest := h128 s.latch.backend s.input s.latch.len.toNat kSecret secretDefaultSize s.latch.seed
  .next ((s.deliver code digest.1 digest.2).complete code)

/-- HASH128.S, R265: the caller's secret. -/
def execHash128s (s : State) : Host.Outcome State Fault Refusal :=
  let code := s.errorCode .hash128s
  let digest := h128 s.latch.backend s.input s.latch.len.toNat s.callerSecret s.latch.seclen.toNat s.latch.seed
  .next ((s.deliver code digest.1 digest.2).complete code)

/-- DERIVE, R266: the results keep their values, unless the host broke its duty (20_memory.md R89). -/
def execDerive (s : State) : Host.Outcome State Fault Refusal :=
  let code := s.errorCode .derive
  .next (((s.deriveWrites code).deliver code s.resultLo s.resultHi).complete code)

/-- ILLEGAL, R267: no memory is accessed and the results are unchanged. -/
def execIllegal (s : State) : Host.Outcome State Fault Refusal :=
  .next (s.complete .illegalCmd)

end Sys2Proof.Machine
end

