-- ==== Sys2Proof/Machine/Dispatch.lean ====
section
/-! DEFINITION. The one match from commands to their meanings (46_commands.md R262, `execute`). -/

namespace Sys2Proof.Machine

open Sys2Proof

def exec (i : Instr) (s : State) : Host.Outcome State Fault Refusal :=
  match i with
  | .hash64 => Sys2Proof.Machine.execHash64 s
  | .hash128 => Sys2Proof.Machine.execHash128 s
  | .hash128s => Sys2Proof.Machine.execHash128s s
  | .derive => Sys2Proof.Machine.execDerive s

end Sys2Proof.Machine
end

