-- ==== Sys2Proof/Machine/Registers.lean ====
section
/-! DEFINITION. The register block (10_state.md R21-R35): which register an access reaches, what a read returns and what a
write does. -/

namespace Sys2Proof.Machine

open Sys2Proof

/-- The slots of R21. -/
inductive Reg where
  | id
  | caps
  | ctrl
  | status
  | cmd
  | srcAddr
  | len
  | seed
  | secretAddr
  | secretLen
  | dstAddr
  | resultLo
  | resultHi
  | reserved
  deriving DecidableEq, Repr

/-- The map of R21. -/
def regAt (off : Nat) : Reg :=
  match off with
  | 0x00 => .id
  | 0x08 => .caps
  | 0x10 => .ctrl
  | 0x18 => .status
  | 0x20 => .cmd
  | 0x28 => .srcAddr
  | 0x30 => .len
  | 0x38 => .seed
  | 0x40 => .secretAddr
  | 0x48 => .secretLen
  | 0x50 => .dstAddr
  | 0x58 => .resultLo
  | 0x60 => .resultHi
  | _ => .reserved

/-- `off(REG)` (30_encoding.md R106); a reserved slot is named by its first offset. -/
def regOffset : Reg → Nat
  | .id => 0x00
  | .caps => 0x08
  | .ctrl => 0x10
  | .status => 0x18
  | .cmd => 0x20
  | .srcAddr => 0x28
  | .len => 0x30
  | .seed => 0x38
  | .secretAddr => 0x40
  | .secretLen => 0x48
  | .dstAddr => 0x50
  | .resultLo => 0x58
  | .resultHi => 0x60
  | .reserved => 0x68

/-- STATUS as it reads (R26). -/
def State.statusValue (s : State) : Word := statusWord (s.phase == .busy) s.status

/-- What a read returns; it changes no state (R22). -/
def State.readReg (s : State) : Reg → Word
  | .id => idWord
  | .caps => capsWord s.platform
  | .ctrl => ctrlWord s.ctrl
  | .status => s.statusValue
  | .cmd => 0#64
  | .srcAddr => s.srcAddr
  | .len => s.len
  | .seed => s.seed
  | .secretAddr => s.secretAddr
  | .secretLen => s.secretLen
  | .dstAddr => s.dstAddr
  | .resultLo => s.resultLo
  | .resultHi => s.resultHi
  | .reserved => 0#64

/-- A write to CMD (R27): issue while IDLE, dropped while BUSY. -/
def State.writeCmd (s : State) (w : Word) : State :=
  match s.phase with
  | .idle => s.issue w
  | .busy => s.overrun

/-- What a write does (R273); a write to a read-only or reserved slot changes nothing (R21). -/
def State.writeReg (s : State) (r : Reg) (w : Word) : State :=
  match r with
  | .id => s
  | .caps => s
  | .ctrl => State.syncIrq { s with ctrl := ctrlOfWord w }
  | .status => State.syncIrq { s with status := statusW1C s.status w }
  | .cmd => s.writeCmd w
  | .srcAddr => { s with srcAddr := w }
  | .len => { s with len := w }
  | .seed => { s with seed := w }
  | .secretAddr => { s with secretAddr := w }
  | .secretLen => { s with secretLen := w }
  | .dstAddr => { s with dstAddr := w }
  | .resultLo => s
  | .resultHi => s
  | .reserved => s

/-! Which part of the system an access reaches. -/

/-- The bytes an access of `n` bytes covers. -/
def accessRegion (addr : Word) (n : Nat) : Region := ⟨addr.toNat, n⟩

/-- Where an access goes. -/
inductive Target where
  | register (r : Reg)
  /-- The block answers with a bus error (R22). -/
  | refused
  | memory
  deriving DecidableEq, Repr

/-- R22: only 64-bit accesses at offsets that are multiples of 8 reach a register; any other access that touches the block
is refused, whatever its width. DEDUCED: so is one that straddles an end of the block (log 8). -/
def accessTarget (p : Platform) (addr : Word) (n : Nat) : Target :=
  if !(accessRegion addr n).meets p.block then .memory
  else if n = 8 ∧ p.block.contains addr.toNat ∧ (addr.toNat - p.block.start) % 8 = 0 then
    .register (regAt (addr.toNat - p.block.start))
  else .refused

end Sys2Proof.Machine
end

