-- ==== Sys2Proof/Machine/Hosts.lean ====
section
/-! DEFINITION. The steps of the host agents (46_commands.md R273) on the register block and on system memory. -/

namespace Sys2Proof.Machine

open Sys2Proof

/-! System memory as a host sees it. -/

/-- A byte a host reads: in the WR of a running DERIVE it is the old byte or the new one (70_reset_and_hazards.md R339), in a
region with read side effects it is any byte, else it is the byte stored. `k` numbers the bytes of one access. -/
def State.hostByte (s : State) (a k : Nat) : Byte :=
  if s.deriveInFlight && (writeRange s.latch).contains a then s.inFlightByte (a - s.latch.dst.toNat)
  else if s.platform.volatile a then Config.freeByte s.draws (512 + k)
  else Memory.read s.mem a

/-- The `n` bytes a host's read from address `a` returns, the lowest address first. -/
def State.hostBytes (s : State) (a n : Nat) : List Byte := (List.range n).map fun k => s.hostByte (a + k) k

/-- The platform answers an access of a host to system memory: it lies in the address space and clear of the given
regions. -/
def memoryAnswers (p : Platform) (faults : List Region) (r : Region) : Bool := inRange p r && clearOf faults r

/-- The store touches a declared range of the running command, which breaks the duty of 20_memory.md R88. -/
def State.breaksDuty (s : State) (r : Region) : Bool :=
  s.phase == .busy &&
    match s.fetch with
    | .command i => (declaredRanges s.latch i).any r.meets
    | .illegal _ => false

/-- A host's store to system memory. -/
def State.hostStore (s : State) (addr : Word) (bytes : List Byte) : State :=
  { s with
    mem := busWriteList s.platform addr.toNat bytes s.mem
    dutyBroken := s.dutyBroken || s.breaksDuty (accessRegion addr bytes.length) }

/-! A host's record. -/

/-- The host goes on to its next operation. -/
def HostAgent.advance (h : HostAgent) : HostAgent := { h with ops := h.ops.drop 1 }

/-- The host's read returned bytes. -/
def HostAgent.receive (h : HostAgent) (v : List Byte) : HostAgent := { h with value := v }

/-- The host got a bus error; nothing else happens (60_exceptions.md R305). -/
def HostAgent.record (h : HostAgent) (e : BusError) : HostAgent := { h with errors := h.errors ++ [e] }

/-- Host `n` after its step. -/
def State.putHost (s : State) (n : Nat) (h : HostAgent) : State := { s with hosts := s.hosts.set n h }

/-! The steps. -/

/-- A read: a register's value is its eight bus bytes (10_state.md R22). -/
def State.hostRead (s : State) (n : Nat) (h : HostAgent) (addr : Word) (width : Nat) : State :=
  match accessTarget s.platform addr width with
  | .register r => s.putHost n (h.advance.receive (busBytes (s.readReg r)))
  | .refused => s.putHost n (h.advance.record (.registerAccess addr width))
  | .memory =>
    if memoryAnswers s.platform s.platform.readFaults (accessRegion addr width) then
      { s.putHost n (h.advance.receive (s.hostBytes addr.toNat width)) with draws := s.draws + 1 }
    else s.putHost n (h.advance.record (.memoryRead addr width))

/-- A write: eight bytes at a register are its value (R22). -/
def State.hostWrite (s : State) (n : Nat) (h : HostAgent) (addr : Word) (bytes : List Byte) : State :=
  match accessTarget s.platform addr bytes.length with
  | .register r => (s.writeReg r (busWord bytes)).putHost n h.advance
  | .refused => s.putHost n (h.advance.record (.registerAccess addr bytes.length))
  | .memory =>
    if memoryAnswers s.platform s.platform.writeFaults (accessRegion addr bytes.length) then
      (s.hostStore addr bytes).putHost n h.advance
    else s.putHost n (h.advance.record (.memoryWrite addr bytes.length))

/-- One round of `wait`, R108: STATUS is read, and the host goes on once BUSY is 0. DESIGN CHOICE: it is the register that is
read whatever BASE is, also where the address of STATUS would pass `2^64` (log 21). -/
def State.hostPoll (s : State) (n : Nat) (h : HostAgent) : State :=
  match s.phase with
  | .idle => s.putHost n (h.advance.receive (busBytes s.statusValue))
  | .busy => s.putHost n (h.receive (busBytes s.statusValue))

/-- A host waiting for the interrupt makes progress only while IRQ is 1 (70_reset_and_hazards.md R344, I16). -/
def State.hostAwaitIrq (s : State) (n : Nat) (h : HostAgent) : State :=
  if s.irq then s.putHost n h.advance else s

/-- The step of host `n`; a host with nothing left to do, or that is not there, takes none. -/
def State.hostStep (s : State) (n : Nat) : State :=
  match s.hosts[n]? with
  | none => s
  | some h =>
    match h.ops with
    | [] => s
    | .read addr width :: _ => s.hostRead n h addr width
    | .write addr bytes :: _ => s.hostWrite n h addr bytes
    | .waitIdle :: _ => s.hostPoll n h
    | .waitIrq :: _ => s.hostAwaitIrq n h

/-- The host can make progress. -/
def HostAgent.ready (irq : Bool) (h : HostAgent) : Bool :=
  match h.ops with
  | [] => false
  | .read _ _ :: _ => true
  | .write _ _ :: _ => true
  | .waitIdle :: _ => true
  | .waitIrq :: _ => irq

end Sys2Proof.Machine
end

