-- ==== Sys2Proof/Machine/Turns.lean ====
section
/-! DEFINITION. Whose step comes next (46_commands.md R273) and what it does. -/

namespace Sys2Proof.Machine

open Sys2Proof

/-- The completion of a decoded word (R262). -/
def completeDecoded (d : Decoded) (s : State) : Host.Outcome State Fault Refusal :=
  match d with
  | .command i => exec i s
  | .illegal _ => execIllegal s

/-- The engine's turn: completion, enabled exactly while BUSY (R262); while IDLE it has no step to take. -/
def engineTurn (s : State) : Host.Outcome State Fault Refusal :=
  match s.phase with
  | .idle => .next s
  | .busy => completeDecoded s.fetch s

/-- The step of an agent. -/
def takeTurn (t : Turn) (s : State) : Host.Outcome State Fault Refusal :=
  match t with
  | .engine => engineTurn s
  | .host n => .next (s.hostStep n)
  | .reset => .next s.resetEngine

/-- The turn when the schedule is used up: the engine while BUSY, so that every command completes (70_reset_and_hazards.md
R345); else the first host that can make progress; else nothing is left to do (R274). -/
def State.defaultTurn (s : State) : Turn :=
  match s.phase with
  | .busy => .engine
  | .idle =>
    match s.hosts.findIdx? (HostAgent.ready s.irq) with
    | some n => .host n
    | none => .engine

/-- The next turn. -/
def State.nextTurn (s : State) : Turn := s.schedule.headD s.defaultTurn

/-- The state with its next turn taken off the schedule. -/
def State.popTurn (s : State) : State := { s with schedule := s.schedule.drop 1 }

/-- The state in which a host has just issued a word and the engine's turn is next. -/
def State.withIssued (s : State) (w : Word) : State :=
  { s.issue w with schedule := .engine :: s.schedule }

end Sys2Proof.Machine
end

