-- ==== Sys2Proof/Machine/Step.lean ====
section
/-! DEFINITION. One step of the machine: one atomic step of one agent (46_commands.md R273). -/

namespace Sys2Proof.Machine

open Sys2Proof

def step (s : State) : Host.Outcome State Fault Refusal := takeTurn s.nextTurn s.popTurn

/-- The command word issued and the engine's turn next, so that the next step completes it (log 7). -/
def State.withFetchWord (s : State) (nbits w : Nat) : State := s.withIssued (BitVec.ofNat 64 (w % 2 ^ nbits))

end Sys2Proof.Machine
end

