-- ==== Sys2Proof/Safety.lean ====
section
/-! DEFINITION. What claims call a safe run: the invariant of the machine, the duty of the host, the end of a run, and the
conditions under which a command completes without error, stated from the spec's own words. -/

namespace Sys2Proof.Machine

open Sys2Proof

/-- The relations between fields that every step keeps. -/
structure State.Inv (s : State) : Prop where
  /-- Memory is in its one form. -/
  memForm : Memory.wf s.mem
  /-- No byte is listed outside the address space (20_memory.md R70). -/
  memBound : ∀ c ∈ s.mem, c.1 < s.platform.addrLimit
  /-- No byte is listed in the register block (R71). -/
  memOutside : ∀ c ∈ s.mem, s.platform.block.contains c.1 = false
  /-- `IRQ = CTRL.IE & STATUS.DONE` (10_state.md R48). -/
  irqIsLevel : s.irq = irqLevel s.ctrl s.status
  /-- ERR is set exactly when ERRCODE is not 0 (R26, D42). -/
  errHasCode : s.status.err = (s.status.errcode != .none)
  /-- DONE and ERR are 0 while BUSY (46_commands.md R260, 60_exceptions.md R303). -/
  busyIsClear : s.phase = .busy → s.status.done = false ∧ s.status.err = false
  /-- BACKEND_USED is a present backend (44_secret_and_backends.md R223). -/
  usedPresent : ∀ b, s.status.backendUsed = some b → backendPresent s.platform b = true
  /-- The latched backend of a running command is present (R223). -/
  latchPresent : s.phase = .busy → backendPresent s.platform s.latch.backend = true
  /-- The model's duty flag is about the running command only. -/
  idleDuty : s.phase = .idle → s.dutyBroken = false

/-- Every byte of a range is answered by a read (20_memory.md R85). -/
def allReadOK (p : Platform) (r : Region) : Prop := ∀ a, r.contains a = true → p.readOK a = true

/-- Every byte of a range is answered by a write (R85). -/
def allWriteOK (p : Platform) (r : Region) : Prop := ∀ a, r.contains a = true → p.writeOK a = true

/-- No byte of a range has read side effects or is a register (R71, R80). -/
def allPlain (p : Platform) (r : Region) : Prop := ∀ a, r.contains a = true → p.volatile a = false

/-- The range is empty or ends inside the address space (R83). -/
def rangeFits (p : Platform) (r : Region) : Prop := r.size = 0 ∨ r.start + r.size ≤ p.addrLimit

/-- The input of the running command can be hashed: in range, readable, plain memory, and no host broke its duty. -/
structure State.InputReady (s : State) : Prop where
  duty : s.dutyBroken = false
  fits : rangeFits s.platform (inputRange s.latch)
  readable : allReadOK s.platform (inputRange s.latch)
  plain : allPlain s.platform (inputRange s.latch)

/-- The caller's secret of the running command can be used. -/
structure State.SecretReady (s : State) : Prop where
  long : 136 ≤ s.latch.seclen.toNat
  fits : rangeFits s.platform (secretRange s.latch)
  readable : allReadOK s.platform (secretRange s.latch)
  plain : allPlain s.platform (secretRange s.latch)

/-- The write range of the running DERIVE can be written. -/
structure State.WindowReady (s : State) : Prop where
  duty : s.dutyBroken = false
  fits : rangeFits s.platform (writeRange s.latch)
  writable : allWriteOK s.platform (writeRange s.latch)

/-- No host fault has been recorded (R274). DESIGN CHOICE: a platform's bus error on a host's own access to system memory
counts as one, beside the refused register accesses that R273 calls host faults (log 24). -/
def State.HostsClean (s : State) : Prop := ∀ h ∈ s.hosts, h.errors = []

/-- The end of a run of the script of host `n` (R274): IDLE, that script used up, no host fault recorded. What other hosts
have still to do, and which turns are listed, does not matter. -/
def State.Finished (s : State) (n : Nat) : Prop :=
  s.phase = .idle ∧ (∃ h, s.hosts[n]? = some h ∧ h.ops = []) ∧ s.HostsClean

/-- The registers a completion never writes (60_exceptions.md R297): CTRL and the operand registers. -/
structure State.SameHostRegisters (s t : State) : Prop where
  ctrl : t.ctrl = s.ctrl
  srcAddr : t.srcAddr = s.srcAddr
  len : t.len = s.len
  seed : t.seed = s.seed
  secretAddr : t.secretAddr = s.secretAddr
  secretLen : t.secretLen = s.secretLen
  dstAddr : t.dstAddr = s.dstAddr

/-- What lies outside the engine and its memory: the parameters and the agents. -/
structure State.SameAgents (s t : State) : Prop where
  platform : t.platform = s.platform
  hosts : t.hosts = s.hosts
  schedule : t.schedule = s.schedule

/-- The results are the ones before. -/
def State.SameResults (s t : State) : Prop := t.resultLo = s.resultLo ∧ t.resultHi = s.resultHi

/-- Every byte of memory reads as before. -/
def State.SameBytes (s t : State) : Prop := ∀ a, Memory.read t.mem a = Memory.read s.mem a

/-- A running command on another backend. -/
def State.withBackend (s : State) (b : Backend) : State := { s with latch := { s.latch with backend := b } }

/-- A completed state with another value of STATUS.BACKEND_USED. -/
def State.markUsed (s : State) (b : Backend) : State := { s with status := { s.status with backendUsed := some b } }

/-- The next turn is a host's, and that host writes the value to the register. -/
def State.HostWrites (s : State) (r : Reg) (w : Word) : Prop :=
  ∃ n h addr bytes rest, s.nextTurn = .host n ∧ s.hosts[n]? = some h ∧ h.ops = .write addr bytes :: rest ∧
    accessTarget s.platform addr bytes.length = .register r ∧ busWord bytes = w

/-- The next turn is a host's, and that host stores to system memory at bytes among which is the address. -/
def State.HostStoresAt (s : State) (a : Nat) : Prop :=
  ∃ n h addr bytes rest, s.nextTurn = .host n ∧ s.hosts[n]? = some h ∧ h.ops = .write addr bytes :: rest ∧
    accessTarget s.platform addr bytes.length = .memory ∧ (accessRegion addr bytes.length).contains a = true

end Sys2Proof.Machine
end

