-- ==== Sys2Proof/Certificates/Slice0/Obligations.lean ====
section
/-! DEFINITION. The statements about the model, each with the rule of spec/ it formalises. -/

open Sys2Proof Sys2Proof.Machine

/-! ## Encoding -/

/-- 30_encoding.md R101, the words written out field by field as R100 lays them out: RSVD, SEC, OP. -/
def Obligations.CommandWordsDecodeAsTabled : Prop :=
  decode (0#59 ++ (0b0#1 ++ 0b0001#4) : BitVec (59 + (1 + 4))) = .command .hash64 ∧
  decode (0#59 ++ (0b0#1 ++ 0b0010#4) : BitVec (59 + (1 + 4))) = .command .hash128 ∧
  decode (0#59 ++ (0b1#1 ++ 0b0010#4) : BitVec (59 + (1 + 4))) = .command .hash128s ∧
  decode (0#59 ++ (0b0#1 ++ 0b0011#4) : BitVec (59 + (1 + 4))) = .command .derive

/-- Decode and encode agree on bytes, in both directions: the eight bytes of a command's word, lowest first, decode to it,
and no other byte sequence of any length does (R100, R101, R105; 10_state.md R22). -/
def Obligations.BytesDecodeOnlyToTheirCommand : Prop :=
  ∀ (bs : List Byte) (i : Instr), decodeBytes bs = .command i ↔ bs = encodeBytes i

/-- R103: which words are illegal, the word 0 among them; such a word is issued while IDLE like any other, and its
completion raises ILLEGAL_CMD. -/
def Obligations.IllegalWordsIssueAndRaiseIllegalCmd : Prop :=
  (∀ w : Word, (∃ r, decode w = .illegal r) ↔
    (w.extractLsb' 0 4 = 0#4 ∨ 4 ≤ (w.extractLsb' 0 4).toNat ∨
      (w.extractLsb' 4 1 = 1#1 ∧ w.extractLsb' 0 4 ≠ 2#4) ∨ w.extractLsb' 5 59 ≠ 0#59)) ∧
  (∃ r, decode 0#64 = .illegal r) ∧
  ∀ (s : State) (w : Word) (r : IllegalReason), s.phase = .idle → decode w = .illegal r →
    s.writeReg .cmd w = s.issue w ∧ (s.issue w).phase = .busy ∧ (s.issue w).latch.word = w ∧
    ∃ t, engineTurn (s.issue w) = .next t ∧ t.status.err = true ∧ t.status.errcode = .illegalCmd

/-! ## The step -/

/-- When the engine's turn comes while a command is latched, the step is `exec` of that command, on the state whose turn has
been taken off the schedule (46_commands.md R262). -/
def Obligations.StepRunsTheLatchedCommand : Prop :=
  ∀ (s : State) (i : Instr), s.nextTurn = .engine → s.phase = .busy → decode s.latch.word = .command i →
    step s = exec i s.popTurn

/-- What the step does at every other turn: a host's step, a reset, the completion of an illegal word, and nothing when the
engine is IDLE (46_commands.md R273). -/
def Obligations.StepTakesTheTurnOfEveryAgent : Prop :=
  ∀ s : State,
    (∀ n, s.nextTurn = .host n → step s = .next (s.popTurn.hostStep n)) ∧
    (s.nextTurn = .reset → step s = .next s.popTurn.resetEngine) ∧
    (s.nextTurn = .engine → s.phase = .idle → step s = .next s.popTurn) ∧
    (∀ r, s.nextTurn = .engine → s.phase = .busy → decode s.latch.word = .illegal r → step s = execIllegal s.popTurn)

/-- No step of the machine stops: the engine refuses no access and is never stuck (R273). -/
def Obligations.NoStepStops : Prop := ∀ s : State, ∃ t, step s = .next t

/-! ## Issue -/

/-- R260: a CMD write while IDLE latches the word, the operand registers and the effective backend, clears DONE, ERR and
ERRCODE, keeps OVR and BACKEND_USED, sets BUSY, drops IRQ and touches no memory and no other register. -/
def Obligations.IssueLatchesOperandsAndSetsBusy : Prop :=
  ∀ (s : State) (w : Word), s.phase = .idle →
    (s.writeReg .cmd w).latch = ⟨w, s.srcAddr, s.len, s.seed, s.secretAddr, s.secretLen, s.dstAddr,
      effectiveBackend s.platform s.ctrl.backend⟩ ∧
    (s.writeReg .cmd w).status = ⟨false, false, s.status.ovr, .none, s.status.backendUsed⟩ ∧
    (s.writeReg .cmd w).phase = .busy ∧ ((s.writeReg .cmd w).readReg .status).getLsbD 0 = true ∧
    (s.writeReg .cmd w).irq = false ∧ (s.writeReg .cmd w).mem = s.mem ∧
    s.SameHostRegisters (s.writeReg .cmd w) ∧ s.SameResults (s.writeReg .cmd w) ∧ s.SameAgents (s.writeReg .cmd w)

/-- R261: a CMD write while BUSY has one effect, OVR. -/
def Obligations.DroppedCommandSetsOnlyOverrun : Prop :=
  ∀ (s : State) (w : Word), s.phase = .busy →
    s.writeReg .cmd w = { s with status := { s.status with ovr := true } }

/-- 44_secret_and_backends.md R223: the table of `eb`, whose value is always a present backend; a request for an absent
backend sets no error; and every completion, also of an illegal word, writes the latched backend to BACKEND_USED. The codes
are those of the bits written to CTRL (10_state.md R25: 0 AUTO, 1 SCALAR, 2 NARROW, 3 WIDE) and read from STATUS (R26, R222:
1 SCALAR, 2 NARROW, 3 WIDE, and 0 before any completion). -/
def Obligations.BackendIsResolvedAtIssueAndReported : Prop :=
  (∀ p : Platform,
    effectiveBackend p .scalar = .scalar ∧
    effectiveBackend p .auto = (if p.hasWide then .wide else if p.hasNarrow then .narrow else .scalar) ∧
    effectiveBackend p .narrow = (if p.hasNarrow then .narrow else effectiveBackend p .auto) ∧
    effectiveBackend p .wide = (if p.hasWide then .wide else effectiveBackend p .auto)) ∧
  (∀ p b, backendPresent p (effectiveBackend p b) = true) ∧
  (∀ (s : State) (w : Word), (s.writeReg .ctrl w).ctrl.backend =
    (if w.extractLsb' 0 2 = 0#2 then .auto else if w.extractLsb' 0 2 = 1#2 then .scalar
      else if w.extractLsb' 0 2 = 2#2 then .narrow else .wide)) ∧
  (∀ s : State,
    (s.status.backendUsed = none → (s.readReg .status).extractLsb' 16 2 = 0#2) ∧
    (s.status.backendUsed = some .scalar → (s.readReg .status).extractLsb' 16 2 = 1#2) ∧
    (s.status.backendUsed = some .narrow → (s.readReg .status).extractLsb' 16 2 = 2#2) ∧
    (s.status.backendUsed = some .wide → (s.readReg .status).extractLsb' 16 2 = 3#2)) ∧
  (∀ (s : State) (w : Word), (s.issue w).latch.backend = effectiveBackend s.platform s.ctrl.backend ∧
    (s.issue w).status.err = false) ∧
  (∀ (s : State) (i : Instr), ∃ t, exec i s = .next t ∧ t.status.backendUsed = some s.latch.backend) ∧
  ∀ s : State, ∃ t, execIllegal s = .next t ∧ t.status.backendUsed = some s.latch.backend

/-! ## Registers -/

/-- 10_state.md R28-R33: a written operand register reads back as the whole value, in any phase, and the write changes what
no other register reads. -/
def Obligations.OperandRegistersReadBackWhatWasWritten : Prop :=
  ∀ (s : State) (r r' : Reg) (v : Word), r ∈ [Reg.srcAddr, .len, .seed, .secretAddr, .secretLen, .dstAddr] →
    (s.writeReg r v).readReg r' = if r' = r then v else s.readReg r'

/-- R25: CTRL keeps bits 1:0 and 8 of a written value, its reserved bits read 0, and IE acts on IRQ at once. -/
def Obligations.ControlKeepsBackendAndEnableBitsOnly : Prop :=
  ∀ (s : State) (w : Word), (s.writeReg .ctrl w).readReg .ctrl = w &&& 0x103#64 ∧
    (s.writeReg .ctrl w).irq = (w.getLsbD 8 && s.status.done)

/-- R26: writing STATUS clears DONE, ERR with ERRCODE, and OVR where the written bit is 1, and nothing else of it. -/
def Obligations.StatusWriteClearsOnlyTheNamedFlags : Prop :=
  ∀ (s : State) (w : Word), (s.writeReg .status w).readReg .status =
    s.readReg .status &&& ~~~((w &&& 0xE#64) ||| (if w.getLsbD 2 then 0xFF00#64 else 0#64))

/-- R21, R23, R24: a write to a read-only or reserved slot changes no state; ID and CAPS are constants, CMD and reserved
slots read 0. -/
def Obligations.ReadOnlyAndReservedSlotsIgnoreWrites : Prop :=
  ∀ (s : State) (w : Word), s.writeReg .id w = s ∧ s.writeReg .caps w = s ∧ s.writeReg .resultLo w = s ∧
    s.writeReg .resultHi w = s ∧ s.writeReg .reserved w = s ∧ s.readReg .id = 0x5858483300000001#64 ∧
    s.readReg .caps = (1#64 ||| (if s.platform.hasNarrow then 2#64 else 0#64) |||
      (if s.platform.hasWide then 4#64 else 0#64)) ∧
    s.readReg .cmd = 0#64 ∧ s.readReg .reserved = 0#64

/-- R21, R22: a 64-bit host access at an offset that is a multiple of 8 reaches the register the map of R21 has at that
offset; the value sits on the bus little-endian; a read returns it and changes nothing but that host's record. -/
def Obligations.AlignedAccessReachesItsRegister : Prop :=
  (regAt 0x00 = .id ∧ regAt 0x08 = .caps ∧ regAt 0x10 = .ctrl ∧ regAt 0x18 = .status ∧ regAt 0x20 = .cmd ∧
    regAt 0x28 = .srcAddr ∧ regAt 0x30 = .len ∧ regAt 0x38 = .seed ∧ regAt 0x40 = .secretAddr ∧ regAt 0x48 = .secretLen ∧
    regAt 0x50 = .dstAddr ∧ regAt 0x58 = .resultLo ∧ regAt 0x60 = .resultHi ∧
    ∀ off, 0x68 ≤ off → off < 0x100 → regAt off = .reserved) ∧
  (∀ (v : Word) (k : Nat), k < 8 → (busBytes v)[k]? = some (v.extractLsb' (8 * k) 8)) ∧
  ∀ (s : State) (n off : Nat) (h : HostAgent) (v : Word) (rest : List HostOp),
    s.platform.base.toNat + 256 ≤ 2 ^ 64 → off < 256 → off % 8 = 0 → s.hosts[n]? = some h →
    (h.ops = .write (s.platform.base + BitVec.ofNat 64 off) (busBytes v) :: rest →
      s.hostStep n = (s.writeReg (regAt off) v).putHost n { h with ops := rest }) ∧
    (h.ops = .read (s.platform.base + BitVec.ofNat 64 off) 8 :: rest →
      s.hostStep n = s.putHost n { h with ops := rest, value := busBytes (s.readReg (regAt off)) })

/-- 60_exceptions.md R305, 10_state.md R22: an access of one byte or more, of any width, that touches the block and is not a
64-bit one at a multiple of 8 inside it is a fault of the host that made it, recorded in that host, and changes no engine
state and no memory. That this is so of an access that straddles an end of the block is the model's reading of R22 (DEDUCED,
log 8), not the rule's words. -/
def Obligations.RefusedAccessIsTheHostsFaultOnly : Prop :=
  ∀ (s : State) (n : Nat) (h : HostAgent) (addr : Word) (width : Nat) (bytes : List Byte) (rest : List HostOp),
    s.hosts[n]? = some h →
    (h.ops = .read addr width :: rest ∨ (h.ops = .write addr bytes :: rest ∧ bytes.length = width)) →
    0 < width → s.platform.base.toNat < addr.toNat + width → addr.toNat < s.platform.base.toNat + 256 →
    ¬ (width = 8 ∧ s.platform.base.toNat ≤ addr.toNat ∧ 8 ∣ addr.toNat - s.platform.base.toNat) →
    s.hostStep n = s.putHost n ⟨rest, h.value, h.errors ++ [.registerAccess addr width]⟩

/-- 60_exceptions.md R300: IE is the only mask: clearing it drops IRQ at once and keeps DONE, setting it while DONE is 1
raises IRQ at once, and completions with and without an error raise IRQ alike. -/
def Obligations.EnableBitMasksTheInterrupt : Prop :=
  (∀ (s : State) (w : Word), (s.writeReg .ctrl w).status = s.status ∧
    (w.getLsbD 8 = false → (s.writeReg .ctrl w).irq = false) ∧
    (w.getLsbD 8 = true → s.status.done = true → (s.writeReg .ctrl w).irq = true)) ∧
  (∀ (s : State) (i : Instr), ∃ t, exec i s = .next t ∧ t.irq = s.ctrl.ie) ∧
  ∀ s : State, ∃ t, execIllegal s = .next t ∧ t.irq = s.ctrl.ie

/-! ## What the commands do -/

/-- 46_commands.md R263: where the input is in range, readable and plain, HASH64 completes without error, RESULT_LO is the
XXH64 of the bytes of IR, RESULT_HI is 0, DONE is set and IRQ follows IE. -/
def Obligations.Hash64DeliversXxh64OfTheInput : Prop :=
  ∀ s : State, s.InputReady → ∃ t, exec .hash64 s = .next t ∧
    t.resultLo = h64 (fun k => Memory.read s.mem (s.latch.src.toNat + k)) s.latch.len.toNat s.latch.seed ∧
    t.resultHi = 0#64 ∧ t.status = ⟨true, false, s.status.ovr, .none, some s.latch.backend⟩ ∧ t.phase = .idle ∧
    t.irq = s.ctrl.ie

/-- R264: HASH128 delivers the XXH3-128 of the input with the ROM secret, as the scalar rules compute it, whatever the
backend. -/
def Obligations.Hash128DeliversDefaultSecretDigest : Prop :=
  ∀ s : State, s.InputReady → ∃ t, exec .hash128 s = .next t ∧
    (t.resultLo, t.resultHi) = h128 .scalar (fun k => Memory.read s.mem (s.latch.src.toNat + k)) s.latch.len.toNat
      kSecret 192 s.latch.seed ∧
    t.status = ⟨true, false, s.status.ovr, .none, some s.latch.backend⟩ ∧ t.phase = .idle ∧ t.irq = s.ctrl.ie

/-- R265: HASH128.S does so with the caller's secret of at least 136 bytes. For one of `2^61 + 64` bytes or more the digest is
that of an exact block length (DEDUCED, log 25). -/
def Obligations.Hash128SDeliversCallerSecretDigest : Prop :=
  ∀ s : State, s.InputReady → s.SecretReady → ∃ t, exec .hash128s s = .next t ∧
    (t.resultLo, t.resultHi) = h128 .scalar (fun k => Memory.read s.mem (s.latch.src.toNat + k)) s.latch.len.toNat
      (fun k => Memory.read s.mem (s.latch.secaddr.toNat + k)) s.latch.seclen.toNat s.latch.seed ∧
    t.status = ⟨true, false, s.status.ovr, .none, some s.latch.backend⟩ ∧ t.phase = .idle ∧ t.irq = s.ctrl.ie

/-- R266: where WR is in range and writable, DERIVE completes without error, the 192 bytes from DST_ADDR are the derived
secret of the seed as R220 gives it, but for bytes that are registers (20_memory.md R71), and the results keep their
values. -/
def Obligations.DeriveWritesTheDerivedSecret : Prop :=
  ∀ s : State, Memory.wf s.mem → s.WindowReady → ∃ t, exec .derive s = .next t ∧
    (∀ k, k < 192 → s.platform.block.contains (s.latch.dst.toNat + k) = false →
      Memory.read t.mem (s.latch.dst.toNat + k) = encLE64 (if k / 8 % 2 = 0
        then le64 kSecret (8 * (k / 8)) + s.latch.seed else le64 kSecret (8 * (k / 8)) - s.latch.seed) (k % 8)) ∧
    s.SameResults t ∧ t.status = ⟨true, false, s.status.ovr, .none, some s.latch.backend⟩ ∧ t.phase = .idle ∧
    t.irq = s.ctrl.ie

/-- R267: the completion of an illegal word sets DONE, ERR and ERRCODE = 0x01 and leaves results and memory; the word 0 is
such a word, and so is the word 4 of the rule's example, issued by a CMD write while IDLE. -/
def Obligations.IllegalCommandReportsAndChangesNothing : Prop :=
  (∀ (s : State) (r : IllegalReason), s.phase = .busy → s.fetch = .illegal r → ∃ t, engineTurn s = .next t ∧
    t.status = ⟨true, true, s.status.ovr, .illegalCmd, some s.latch.backend⟩ ∧ errorByte t.status.errcode = 0x01#8 ∧
    t.phase = .idle ∧ t.mem = s.mem ∧ s.SameResults t) ∧
  (∃ r, decode 0#64 = .illegal r) ∧
  ∀ s : State, s.phase = .idle → ∃ t, engineTurn (s.writeReg .cmd 0x4#64) = .next t ∧
    (t.readReg .status).extractLsb' 1 2 = 0b11#2 ∧ (t.readReg .status).extractLsb' 8 8 = 0x01#8

/-- 45_hash64.md R248: with LEN = 0 no input byte is read and no input address is checked: whatever SRC_ADDR and memory
hold, HASH64 gives `avalanche64(seed + PRIME64_5)`; with seed 0 this is the document's vector. -/
def Obligations.EmptyInputIsHashedWithoutMemory : Prop :=
  (∀ s : State, s.dutyBroken = false → s.latch.len = 0#64 → ∃ t, exec .hash64 s = .next t ∧
    t.status.errcode = .none ∧ t.resultLo = avalanche64 (s.latch.seed + prime64_5) ∧ t.resultHi = 0#64) ∧
  avalanche64 (0#64 + prime64_5) = 0xEF46DB3751D8E999#64

/-! ## Errors -/

/-- 60_exceptions.md R291: each command reports exactly one code, the first check that fails in the order ILLEGAL_CMD,
SECRET_TOO_SHORT, RANGE, READ_FAULT, WRITE_FAULT, over all the declared ranges together and whatever the backend. -/
def Obligations.FirstFailingCheckGivesTheCode : Prop :=
  (∀ (i : Instr) (s : State), ∃ t, exec i s = .next t ∧
    ((i = .hash128s ∧ s.latch.seclen.toNat < 136 ∧ t.status.errcode = .secretTooShort) ∨
     (¬ (i = .hash128s ∧ s.latch.seclen.toNat < 136) ∧
      (((∃ r ∈ declaredRanges s.latch i, ¬ rangeFits s.platform r) ∧ t.status.errcode = .range) ∨
       ((∀ r ∈ declaredRanges s.latch i, rangeFits s.platform r) ∧
        (((∃ r ∈ readRanges s.latch i, ¬ allReadOK s.platform r) ∧ t.status.errcode = .readFault) ∨
         ((∀ r ∈ readRanges s.latch i, allReadOK s.platform r) ∧
          (((∃ r ∈ writeRanges s.latch i, ¬ allWriteOK s.platform r) ∧ t.status.errcode = .writeFault) ∨
           ((∀ r ∈ writeRanges s.latch i, allWriteOK s.platform r) ∧ t.status.errcode = .none)))))))) ) ∧
  ∀ (s : State) (r : IllegalReason), s.phase = .busy → s.fetch = .illegal r →
    ∃ t, engineTurn s = .next t ∧ t.status.errcode = .illegalCmd

/-- 60_exceptions.md R294: when RANGE is raised, with exact sums, and the rule's example at ADDR_WIDTH 64. -/
def Obligations.RangeErrorIsAnExactBound : Prop :=
  (∀ (s : State) (i : Instr), i = .hash64 ∨ i = .hash128 → ∃ t, exec i s = .next t ∧
    (t.status.errcode = .range ↔ 0 < s.latch.len.toNat ∧
      2 ^ s.platform.addrWidth < s.latch.src.toNat + s.latch.len.toNat)) ∧
  (∀ s : State, 136 ≤ s.latch.seclen.toNat → ∃ t, exec .hash128s s = .next t ∧
    (t.status.errcode = .range ↔
      (0 < s.latch.len.toNat ∧ 2 ^ s.platform.addrWidth < s.latch.src.toNat + s.latch.len.toNat) ∨
      2 ^ s.platform.addrWidth < s.latch.secaddr.toNat + s.latch.seclen.toNat)) ∧
  (∀ s : State, ∃ t, exec .derive s = .next t ∧
    (t.status.errcode = .range ↔ 2 ^ s.platform.addrWidth < s.latch.dst.toNat + 192)) ∧
  (∀ p : Platform, p.addrWidth = 64 → rangeFits p ⟨0xFFFFFFFFFFFFFFF0, 0x10⟩ ∧
    ¬ rangeFits p ⟨0xFFFFFFFFFFFFFFF0, 0x11⟩) ∧
  errorByte .range = 0x02#8

/-- 60_exceptions.md R293: a secret below 136 bytes is reported by HASH128.S whatever else is wrong. -/
def Obligations.ShortSecretIsReportedFirst : Prop :=
  ∀ s : State, s.latch.seclen.toNat < 136 → ∃ t, exec .hash128s s = .next t ∧
    t.status.errcode = .secretTooShort ∧ errorByte t.status.errcode = 0x03#8 ∧ t.status.err = true ∧ t.mem = s.mem ∧ (s.dutyBroken = false → s.SameResults t)

/-- 60_exceptions.md R295: READ_FAULT where every range is in range and a byte of IR, or of SR for HASH128.S, is not
answered, whether or not the algorithm uses that byte. -/
def Obligations.UnreadableByteIsAReadFault : Prop :=
  (∀ (s : State) (i : Instr) (a : Nat), i ≠ .derive → (i = .hash128s → 136 ≤ s.latch.seclen.toNat) →
    (∀ r ∈ declaredRanges s.latch i, rangeFits s.platform r) → s.platform.readOK a = false →
    ((inputRange s.latch).contains a = true ∨ (i = .hash128s ∧ (secretRange s.latch).contains a = true)) →
    ∃ t, exec i s = .next t ∧ t.status.errcode = .readFault ∧ errorByte t.status.errcode = 0x04#8 ∧
      t.status.err = true) ∧
  ∀ (s : State), ∃ t, exec .derive s = .next t ∧ t.status.errcode ≠ .readFault

/-- 60_exceptions.md R296: WRITE_FAULT of DERIVE, and the bytes of WR it may leave: old or derived where WriteOK holds.
Where it does not hold, nothing is said of the byte. -/
def Obligations.WriteFaultLeavesOldOrDerivedBytes : Prop :=
  ∀ (s : State) (a : Nat), Memory.wf s.mem → s.dutyBroken = false → rangeFits s.platform (writeRange s.latch) →
    (writeRange s.latch).contains a = true → s.platform.writeOK a = false →
    ∃ t, exec .derive s = .next t ∧ t.status.errcode = .writeFault ∧ errorByte t.status.errcode = 0x05#8 ∧
      ∀ k, k < 192 → s.platform.writeOK (s.latch.dst.toNat + k) = true →
        Memory.read t.mem (s.latch.dst.toNat + k) = Memory.read s.mem (s.latch.dst.toNat + k) ∨
        Memory.read t.mem (s.latch.dst.toNat + k) = secretAt (deriveSecretScalar s.latch.seed) k

/-- 60_exceptions.md R297: what an error completion changes, of a command and of an illegal word, under the host's duty. -/
def Obligations.ErrorCompletionChangesOnlyStatus : Prop :=
  (∀ (i : Instr) (s : State), s.dutyBroken = false → s.errorCode i ≠ .none → Memory.wf s.mem →
    ∃ t, exec i s = .next t ∧
      t.status = ⟨true, true, s.status.ovr, s.errorCode i, some s.latch.backend⟩ ∧ t.phase = .idle ∧ t.irq = s.ctrl.ie ∧
      s.SameResults t ∧ s.SameHostRegisters t ∧ (s.errorCode i ≠ .writeFault → s.SameBytes t) ∧
      ∀ a, (writeRange s.latch).contains a = false → Memory.read t.mem a = Memory.read s.mem a) ∧
  ∀ s : State, ∃ t, execIllegal s = .next t ∧
    t.status = ⟨true, true, s.status.ovr, .illegalCmd, some s.latch.backend⟩ ∧ t.phase = .idle ∧ t.irq = s.ctrl.ie ∧
    s.SameResults t ∧ s.SameHostRegisters t ∧ s.SameBytes t

/-! ## Frames -/

/-- What the four commands leave unchanged: CTRL and the operand registers, OVR, the parameters and the agents, and every
byte of memory but, for DERIVE, those of WR (R262, R297; 20_memory.md R81). L, ACC and CS are unspecified afterwards. -/
def Obligations.CommandsChangeNoOtherStateOrByte : Prop :=
  ∀ (i : Instr) (s t : State), Memory.wf s.mem → exec i s = .next t →
    s.SameHostRegisters t ∧ t.status.ovr = s.status.ovr ∧ s.SameAgents t ∧
    (i ≠ .derive → s.SameBytes t) ∧
    (i = .derive → ∀ a, (writeRange s.latch).contains a = false → Memory.read t.mem a = Memory.read s.mem a) ∧
    (i = .derive → s.dutyBroken = false → s.SameResults t)

/-- Nothing a host does while BUSY reaches the running command: L, the phase, the results, ERR and ERRCODE but for their
clearing, stay (70_reset_and_hazards.md R337, R341; 46_commands.md R261). -/
def Obligations.HostCannotDisturbTheRunningCommand : Prop :=
  ∀ (s : State) (n : Nat), s.phase = .busy →
    (s.hostStep n).latch = s.latch ∧ (s.hostStep n).phase = .busy ∧ s.SameResults (s.hostStep n) ∧
    (s.hostStep n).platform = s.platform ∧ (s.hostStep n).status.backendUsed = s.status.backendUsed ∧
    ((s.hostStep n).status.done = true → s.status.done = true) ∧
    ((s.hostStep n).status.err = true → s.status.err = true) ∧
    ((s.hostStep n).status.errcode = s.status.errcode ∨ (s.hostStep n).status.errcode = .none)

/-- 10_state.md R34, R35: RESULT_LO and RESULT_HI change only at a successful completion of a hash command, or at reset
(70_reset_and_hazards.md R331), as long as no host breaks its duty. -/
def Obligations.ResultsChangeOnlyAtHashSuccessOrReset : Prop :=
  ∀ s t : State, step s = .next t → s.dutyBroken = false → ¬ s.SameResults t →
    s.nextTurn = .reset ∨ (s.nextTurn = .engine ∧ s.phase = .busy ∧
      ∃ i, i ≠ .derive ∧ s.fetch = .command i ∧ s.errorCode i = .none)

/-- 10_state.md R38: when the phase changes. -/
def Obligations.PhaseChangesOnlyByIssueCompletionReset : Prop :=
  State.reset.phase = .idle ∧
  ∀ s t : State, step s = .next t →
    (s.phase = .idle → t.phase = .busy → ∃ w, s.HostWrites .cmd w) ∧
    (s.phase = .busy → t.phase = .idle → s.nextTurn = .engine ∨ s.nextTurn = .reset) ∧
    ((t.readReg .status).getLsbD 0 = true ↔ t.phase = .busy) ∧
    ((∃ w, s.HostWrites .cmd w) → t.phase = .busy) ∧ (s.nextTurn = .engine → t.phase = .idle) ∧
    (s.nextTurn = .reset → t.phase = .idle)

/-- 60_exceptions.md R304: OVR is set only by a CMD write while BUSY, and cleared only by writing 1 to STATUS bit 3 or by
reset; issue does not clear it. -/
def Obligations.OverrunIsStickyUntilAcknowledged : Prop :=
  ∀ s t : State, step s = .next t →
    (s.status.ovr = false → t.status.ovr = true → s.phase = .busy ∧ ∃ w, s.HostWrites .cmd w) ∧
    (s.status.ovr = true → t.status.ovr = false →
      s.nextTurn = .reset ∨ ∃ w, w.getLsbD 3 = true ∧ s.HostWrites .status w) ∧
    (∀ w, s.HostWrites .cmd w → s.status.ovr = true → t.status.ovr = true) ∧
    (∀ w, s.HostWrites .status w → w.getLsbD 3 = true → t.status.ovr = false) ∧
    (s.nextTurn = .reset → t.status.ovr = false)

/-- 20_memory.md R70, R81: a byte of memory changes only by a host's store at it, by the completion of a DERIVE whose WR
holds it, or by a reset that aborts such a DERIVE. -/
def Obligations.MemoryChangesOnlyByStoreDeriveOrAbort : Prop :=
  ∀ (s t : State) (a : Nat), Memory.wf s.mem → step s = .next t → Memory.read t.mem a ≠ Memory.read s.mem a →
    s.HostStoresAt a ∨
    (s.phase = .busy ∧ s.fetch = .command .derive ∧ (writeRange s.latch).contains a = true ∧
      (s.nextTurn = .engine ∨ s.nextTurn = .reset))

/-! ## Invariants -/

/-- The invariant of the next statement holds after reset; two of its clauses are the model's choice (log 5, log 18). -/
def Obligations.ResetMeetsTheInvariant : Prop := State.reset.Inv

/-- Every step keeps the invariant: memory in its one form and inside the address space (20_memory.md R70), IRQ = IE & DONE
(10_state.md R48), ERR exactly with a code (R26), DONE and ERR clear while BUSY (46_commands.md R260, 60_exceptions.md
R303), only present backends latched and reported (44_secret_and_backends.md R223). Two clauses are the model's choice: that
memory lists no byte in the register block (log 18), and that the model's duty flag is clear while IDLE (log 5). -/
def Obligations.EveryStepKeepsTheInvariant : Prop :=
  ∀ s t : State, s.Inv → step s = .next t → t.Inv

/-- 70_reset_and_hazards.md R333, 10_state.md R47: no step changes the parameters, so ID and CAPS read the same for the
whole run and AUTO resolves the same. -/
def Obligations.ParametersNeverChange : Prop :=
  ∀ s t : State, step s = .next t → t.platform = s.platform ∧ t.readReg .caps = s.readReg .caps ∧
    t.readReg .id = s.readReg .id ∧ ∀ b, effectiveBackend t.platform b = effectiveBackend s.platform b

/-! ## Reset -/

/-- 70_reset_and_hazards.md R331, the values the rule gives (L, ACC and CS it leaves unspecified), for the reset step from
any state and for the state the machine starts in. -/
def Obligations.ResetLeavesTheTabledValues : Prop :=
  ∀ s : State, ∀ t ∈ [s.resetEngine, State.reset],
    t.readReg .id = 0x5858483300000001#64 ∧ t.readReg .ctrl = 0#64 ∧ t.readReg .status = 0#64 ∧ t.readReg .cmd = 0#64 ∧
    t.readReg .srcAddr = 0#64 ∧ t.readReg .len = 0#64 ∧ t.readReg .seed = 0#64 ∧ t.readReg .secretAddr = 0#64 ∧
    t.readReg .secretLen = 0#64 ∧ t.readReg .dstAddr = 0#64 ∧ t.readReg .resultLo = 0#64 ∧ t.readReg .resultHi = 0#64 ∧
    t.readReg .reserved = 0#64 ∧ t.phase = .idle ∧ t.irq = false ∧
    s.resetEngine.readReg .caps = s.readReg .caps ∧ (s.phase = .idle → s.resetEngine.mem = s.mem)

/-- 70_reset_and_hazards.md R332: a reset while BUSY aborts the command: no completion values, results 0, memory unchanged
but for the WR of a DERIVE, whose bytes are old or derived; the engine then accepts a command. -/
def Obligations.ResetAbortsTheRunningCommand : Prop :=
  ∀ s : State, s.phase = .busy → s.dutyBroken = false → Memory.wf s.mem →
    s.resetEngine.phase = .idle ∧ s.resetEngine.status = ⟨false, false, false, .none, none⟩ ∧
    s.resetEngine.resultLo = 0#64 ∧ s.resetEngine.resultHi = 0#64 ∧
    (s.fetch ≠ .command .derive → s.SameBytes s.resetEngine) ∧
    (∀ a, (writeRange s.latch).contains a = false → Memory.read s.resetEngine.mem a = Memory.read s.mem a) ∧
    (∀ k, k < 192 →
      Memory.read s.resetEngine.mem (s.latch.dst.toNat + k) = Memory.read s.mem (s.latch.dst.toNat + k) ∨
      Memory.read s.resetEngine.mem (s.latch.dst.toNat + k) = secretAt (deriveSecretScalar s.latch.seed) k) ∧
    ∀ w, s.resetEngine.writeReg .cmd w = s.resetEngine.issue w ∧ (s.resetEngine.issue w).phase = .busy

/-! ## Completion in time -/

/-- 70_reset_and_hazards.md R345: a running command completes, whatever turns are scheduled before the engine's, as long as
no reset is among them. The rule gives no bound: that the command completes within the scheduled turns and one more rests on
the model's choice that the engine has the turn when the schedule is used up (DESIGN CHOICE, log 13). -/
def Obligations.EveryIssuedCommandCompletes : Prop :=
  ∀ s : State, s.phase = .busy → Turn.reset ∉ s.schedule →
    ∃ (k : Nat) (t : State), k ≤ s.schedule.length ∧ Sys2Proof.core.run (k + 1) s = .next t ∧ t.phase = .idle ∧
      t.status.done = true ∧ t.status.backendUsed = some s.latch.backend

/-! ## Backends -/

/-- 44_secret_and_backends.md R225, R226: the 4-lane and the 2-lane accumulate equal the scalar rule on every input. -/
def Obligations.VectorAccumulateEqualsScalar : Prop :=
  ∀ (acc : Acc) (inp : Nat → Byte) (p : Nat) (sec : Nat → Byte) (q : Nat),
    accumulate512Wide acc inp p sec q = accumulate512Scalar acc inp p sec q ∧
    accumulate512Narrow acc inp p sec q = accumulate512Scalar acc inp p sec q

/-- R227: the scramble multiply as two 32 by 32 products equals the scalar rule, in groups of either width, by the identity
the rule states. -/
def Obligations.VectorScrambleEqualsScalar : Prop :=
  (∀ (a : Word) (p : Half), a * zext64 p = mul32to64 (trunc32 a) p + (mul32to64 (trunc32 (a >>> 32)) p <<< 32)) ∧
  ∀ (acc : Acc) (sec : Nat → Byte) (q : Nat),
    scrambleWide acc sec q = scrambleScalar acc sec q ∧ scrambleNarrow acc sec q = scrambleScalar acc sec q

/-- R228: the grouped derivations equal the scalar one. -/
def Obligations.VectorDerivationEqualsScalar : Prop :=
  ∀ seed : Word, deriveSecretWide seed = deriveSecretScalar seed ∧ deriveSecretNarrow seed = deriveSecretScalar seed

/-- R224: for every command, operand and memory state the completion is the same on all backends but for BACKEND_USED; the
functions of every backend are the scalar ones. -/
def Obligations.BackendsGiveTheSameCompletion : Prop :=
  (∀ (i : Instr) (s : State), ∃ t : State, ∀ b, exec i (s.withBackend b) = .next (t.markUsed b)) ∧
  (∀ s : State, ∃ t : State, ∀ b, execIllegal (s.withBackend b) = .next (t.markUsed b)) ∧
  ∀ b : Backend, accumulate512 b = accumulate512Scalar ∧ scramble b = scrambleScalar ∧ deriveSecret b = deriveSecretScalar

/-- R221: deriving with seed 0 gives `kSecret` byte for byte, on every backend; the long path with seed 0 derives nothing;
and DERIVE with seed 0 writes `kSecret`. -/
def Obligations.DerivationWithSeedZeroIsTheDefaultSecret : Prop :=
  (∀ (b : Backend) (k : Nat), k < 192 → secretAt (deriveSecret b 0#64) k = kSecret k) ∧
  (∀ (b c : Backend) (seed : Word), deriveSecret b seed = deriveSecret c seed) ∧
  (∀ (b : Backend) (inp : Nat → Byte) (len : Nat) (sec : Nat → Byte) (secLen : Nat),
    h128Long b inp len sec secLen 0#64 = hashLong128 b inp len sec secLen) ∧
  ∀ s : State, Memory.wf s.mem → s.WindowReady → s.latch.seed = 0#64 → ∃ t, exec .derive s = .next t ∧
    ∀ k, k < 192 → s.platform.block.contains (s.latch.dst.toNat + k) = false →
      Memory.read t.mem (s.latch.dst.toNat + k) = kSecret k

/-! ## The algorithms -/

/-- 41_h128_short.md R156, 43_h128_long.md R200: every branch reads only inside its buffers, so the digest depends on the
input bytes below the length and the secret bytes below its length alone, and up to 240 bytes on secret bytes below 136
alone. For a secret of `2^61 + 64` bytes or more the digest is that of an exact block length (DEDUCED, log 25). -/
def Obligations.DigestDependsOnlyOnItsBuffers : Prop :=
  ∀ (b : Backend) (inp inp' sec sec' : Nat → Byte) (len secLen secLen' : Nat) (seed : Word),
    (∀ k, k < len → inp k = inp' k) →
    (136 ≤ secLen → (∀ k, k < secLen → sec k = sec' k) →
      h128 b inp len sec secLen seed = h128 b inp' len sec' secLen seed) ∧
    (len ≤ 240 → (∀ k, k < 136 → sec k = sec' k) → h128 b inp len sec secLen seed = h128 b inp' len sec' secLen' seed)

/-- 45_hash64.md R250: XXH64 depends on the input bytes below the length alone. -/
def Obligations.Xxh64DependsOnlyOnItsInput : Prop :=
  ∀ (inp inp' : Nat → Byte) (len : Nat) (seed : Word), (∀ k, k < len → inp k = inp' k) →
    h64 inp len seed = h64 inp' len seed

/-- 43_h128_long.md R190: the bounds of the geometry: at least 9 stripes a block, so a block of at least 576 bytes, and a
partial block shorter than a full one; with the last stripe they cover the input. That the block length
of a secret of `2^61 + 64` bytes or more is exact and does not wrap is the model's reading of the rule (DEDUCED, log 25). -/
def Obligations.LongPathGeometryIsBounded : Prop :=
  ∀ len secLen : Nat, 136 ≤ secLen → 240 < len →
    9 ≤ nbStripesPerBlock secLen ∧ 576 ≤ blockLen secLen ∧ nbStripesLast len secLen ≤ nbStripesPerBlock secLen - 1 ∧
    nbBlocks len secLen * blockLen secLen + 64 * nbStripesLast len secLen < len ∧
    len ≤ nbBlocks len secLen * blockLen secLen + 64 * nbStripesLast len secLen + 64

/-- 43_h128_long.md R199: with a nonzero seed the long path does not use the caller's secret: it is the unseeded long path
on the derived secret. -/
def Obligations.SeededLongPathIgnoresTheCallersSecret : Prop :=
  ∀ (b : Backend) (inp : Nat → Byte) (len : Nat) (sec sec' : Nat → Byte) (secLen secLen' : Nat) (seed : Word),
    240 < len → seed ≠ 0#64 →
    h128 b inp len sec secLen seed = h128 b inp len sec' secLen' seed ∧
    h128 b inp len sec secLen seed = h128 b inp len (secretAt (deriveSecretScalar seed)) 192 0#64

/-- 46_commands.md R265: a caller's secret equal to `kSecret` with S = 192 gives the results of HASH128, for every input and
seed. -/
def Obligations.DefaultSecretInMemoryGivesTheSameDigest : Prop :=
  ∀ s : State, s.InputReady → s.SecretReady → s.latch.seclen = 192#64 →
    (∀ k, k < 192 → Memory.read s.mem (s.latch.secaddr.toNat + k) = kSecret k) →
    ∃ t u, exec .hash128s s = .next t ∧ exec .hash128 s = .next u ∧ t.resultLo = u.resultLo ∧ t.resultHi = u.resultHi

/-- 46_commands.md R271: equal L but for the backend, equal bytes in the read ranges and equal answers of the platform on
the declared ranges give equal error codes, equal digests on success of a hash command and equal bytes of a DERIVE. -/
def Obligations.CompletionsArePure : Prop :=
  ∀ (i : Instr) (s u : State) (b : Backend), s.dutyBroken = false → u.dutyBroken = false → Memory.wf s.mem →
    Memory.wf u.mem → u.latch = { s.latch with backend := b } → u.platform.addrWidth = s.platform.addrWidth →
    (∀ r ∈ readRanges s.latch i, ∀ a, r.contains a = true → u.platform.readOK a = s.platform.readOK a ∧
      u.platform.volatile a = false ∧ s.platform.volatile a = false ∧ Memory.read u.mem a = Memory.read s.mem a) →
    (∀ r ∈ writeRanges s.latch i, ∀ a, r.contains a = true → u.platform.writeOK a = s.platform.writeOK a) →
    ∃ t v, exec i s = .next t ∧ exec i u = .next v ∧ v.status.errcode = t.status.errcode ∧ v.status.err = t.status.err ∧
      (i ≠ .derive → t.status.errcode = .none → v.resultLo = t.resultLo ∧ v.resultHi = t.resultHi) ∧
      (i = .derive → t.status.errcode = .none → ∀ a, (writeRange s.latch).contains a = true →
        s.platform.block.contains a = false → u.platform.block.contains a = false →
        Memory.read v.mem a = Memory.read t.mem a)

/-- 30_encoding.md R104: an operand register a command does not read has no effect on its completion. -/
def Obligations.UnreadOperandsHaveNoEffect : Prop :=
  ∀ (s : State) (x y z u : Word),
    exec .hash64 { s with latch := { s.latch with secaddr := x, seclen := y, dst := z } } = exec .hash64 s ∧
    exec .hash128 { s with latch := { s.latch with secaddr := x, seclen := y, dst := z } } = exec .hash128 s ∧
    exec .hash128s { s with latch := { s.latch with dst := z } } = exec .hash128s s ∧
    exec .derive { s with latch := { s.latch with src := x, len := y, secaddr := z, seclen := u } } = exec .derive s

/-- 40_primitives.md R121, R122, R125; 20_memory.md R77: decoding an encoded word gives it back, a 32-bit decode is the low
half of the 64-bit decode of the same bytes, and the byte swaps are their own inverses. -/
def Obligations.EndianCodecsAreConsistent : Prop :=
  (∀ v : Word, le64 (encLE64 v) 0 = v) ∧
  (∀ (b : Nat → Byte) (i : Nat), trunc32 (le64 b i) = le32 b i) ∧
  (∀ x : Word, swap64 (swap64 x) = x) ∧ (∀ x : Half, swap32 (swap32 x) = x) ∧
  ∀ (x : Word) (k : Nat), k < 8 → encLE64 (swap64 x) k = encLE64 x (7 - k)

/-- 40_primitives.md R129, R130, R131: the widening products are exact, and the fold is symmetric and zero at zero. -/
def Obligations.WideningProductsAreExact : Prop :=
  (∀ a b : Half, (mul32to64 a b).toNat = a.toNat * b.toNat) ∧
  (∀ a b : Word, (mul64to128 a b).1.toNat + 2 ^ 64 * (mul64to128 a b).2.toNat = a.toNat * b.toNat) ∧
  (∀ a b : Word, fold64 a b = fold64 b a) ∧ (∀ x : Word, fold64 0#64 x = 0#64 ∧ fold64 x 0#64 = 0#64)

/-- 41_h128_short.md R154, the corner cases: the two forms of the `mhi` line agree, and the last two multiply lines compute
the low 128 bits of the 128 by 64 product. -/
def Obligations.NineToSixteenAlternateFormsAgree : Prop :=
  (∀ m x : Word, m + x + mul32to64 (trunc32 x) (prime32_2 - 1#32) =
    m + (x &&& 0xFFFFFFFF00000000#64) + mul32to64 (trunc32 x) prime32_2) ∧
  ∀ lo hi : Word, ((mul64to128 lo prime64_2).2 + hi * prime64_2) ++ (mul64to128 lo prime64_2).1 =
    (hi ++ lo) * prime64_2.zeroExtend 128

/-! ## Hosts, duty and shared memory -/

/-- 20_memory.md R88: a host store, while BUSY, at a byte of a declared range of the running command breaks the duty; one
elsewhere does not. -/
def Obligations.StoreIntoDeclaredRangeBreaksTheDuty : Prop :=
  ∀ (s : State) (n : Nat) (h : HostAgent) (addr : Word) (bytes : List Byte) (rest : List HostOp) (i : Instr),
    s.phase = .busy → s.fetch = .command i → s.dutyBroken = false → s.hosts[n]? = some h →
    h.ops = .write addr bytes :: rest → accessTarget s.platform addr bytes.length = .memory →
    memoryAnswers s.platform s.platform.writeFaults (accessRegion addr bytes.length) = true →
    ((s.hostStep n).dutyBroken = true ↔
      ∃ r ∈ declaredRanges s.latch i, ∃ a, r.contains a = true ∧ (accessRegion addr bytes.length).contains a = true)

/-- 20_memory.md R71, R74, R75, R80, 93_implementation_defined.md I7, I8: a hash command that passes its checks delivers the
digest of its buffers, in which exactly the bytes of a device or of the register block are free values and every other byte
is the one stored; so a digest that depends on no such byte is the one the rules give. That such a byte is one free value for
each offset of a buffer is the model's choice (DESIGN CHOICE, log 10), and so is the exact block length of a secret of
`2^61 + 64` bytes or more (DEDUCED, log 25). -/
def Obligations.DeviceBytesAreFreeInTheDigest : Prop :=
  ∀ (s : State) (i : Instr) (inp sec : Nat → Byte), s.dutyBroken = false → i ≠ .derive → s.errorCode i = .none →
    (∀ k, inp k = if k < s.latch.len.toNat ∧ s.platform.volatile (s.latch.src.toNat + k) = true
      then Config.freeInput s.draws k else Memory.read s.mem (s.latch.src.toNat + k)) →
    (∀ k, sec k = if k < s.latch.seclen.toNat ∧ s.platform.volatile (s.latch.secaddr.toNat + k) = true
      then Config.freeSecret s.draws k else Memory.read s.mem (s.latch.secaddr.toNat + k)) →
    ∃ t, exec i s = .next t ∧ t.status = ⟨true, false, s.status.ovr, .none, some s.latch.backend⟩ ∧ t.phase = .idle ∧
      (i = .hash64 → t.resultLo = h64 inp s.latch.len.toNat s.latch.seed ∧ t.resultHi = 0#64) ∧
      (i = .hash128 → (t.resultLo, t.resultHi) = h128 .scalar inp s.latch.len.toNat kSecret 192 s.latch.seed) ∧
      (i = .hash128s → (t.resultLo, t.resultHi) =
        h128 .scalar inp s.latch.len.toNat sec s.latch.seclen.toNat s.latch.seed)

/-- 20_memory.md R89: a command whose duty was broken still completes with the code its checks give; its results are the
free values of the draw, and so are the bytes of a DERIVE's WR (log 5). -/
def Obligations.BrokenDutyKeepsTheCodeAndFreesTheResults : Prop :=
  ∀ (i : Instr) (s : State), s.dutyBroken = true → Memory.wf s.mem → ∃ t, exec i s = .next t ∧ t.phase = .idle ∧
    t.status = ⟨true, s.errorCode i != .none, s.status.ovr, s.errorCode i, some s.latch.backend⟩ ∧
    t.resultLo = Config.freeWord s.draws 0 ∧ t.resultHi = Config.freeWord s.draws 1 ∧
    (i = .derive → ∀ k, k < 192 → s.platform.block.contains (s.latch.dst.toNat + k) = false →
      s.latch.dst.toNat + k < s.platform.addrLimit →
      Memory.read t.mem (s.latch.dst.toNat + k) = Config.freeByte s.draws k)

/-- 30_encoding.md R108: `wait` reads STATUS in every round and ends exactly when BUSY is 0. That it does so also for a
BASE where the address of STATUS would pass `2^64` is the model's choice (DESIGN CHOICE, log 21). -/
def Obligations.WaitEndsExactlyWhenIdle : Prop :=
  ∀ (s : State) (n : Nat) (h : HostAgent) (rest : List HostOp), s.hosts[n]? = some h → h.ops = .waitIdle :: rest →
    s.hostStep n = s.putHost n ⟨if s.phase = .idle then rest else .waitIdle :: rest, busBytes (s.readReg .status), h.errors⟩

/-- A host's store to system memory puts its bytes at its addresses and leaves every other byte; a host's load returns as
many bytes as it asks for and changes that host alone. In the WR of a running DERIVE under the duty of 20_memory.md R88 a
loaded byte is the old or the derived one (70_reset_and_hazards.md R339); elsewhere, but for device bytes, it is the byte in
memory, so after a completion the bytes a DERIVE wrote are read (20_memory.md R87). That a host's access moves its bytes at
once and in address order (log 9), and that one the platform answers by ReadOK or WriteOK lands (log 8), is the model's
choice: R273 leaves host steps on system memory to the platform. -/
def Obligations.HostAccessesMoveTheirBytes : Prop :=
  (∀ (s : State) (n : Nat) (h : HostAgent) (addr : Word) (bytes : List Byte) (rest : List HostOp), Memory.wf s.mem →
    s.hosts[n]? = some h → h.ops = .write addr bytes :: rest → accessTarget s.platform addr bytes.length = .memory →
    memoryAnswers s.platform s.platform.writeFaults (accessRegion addr bytes.length) = true →
    ∀ a, Memory.read (s.hostStep n).mem a =
      if (accessRegion addr bytes.length).contains a then bytes.getD (a - addr.toNat) 0#8 else Memory.read s.mem a) ∧
  ∀ (s : State) (n : Nat) (h : HostAgent) (addr : Word) (width : Nat) (rest : List HostOp),
    s.hosts[n]? = some h → h.ops = .read addr width :: rest → accessTarget s.platform addr width = .memory →
    memoryAnswers s.platform s.platform.readFaults (accessRegion addr width) = true →
    ∃ value : List Byte, s.hostStep n =
        { s with hosts := s.hosts.set n ⟨rest, value, h.errors⟩, draws := s.draws + 1 } ∧ value.length = width ∧
      ∀ k, k < width →
        (s.deriveInFlight = true → (writeRange s.latch).contains (addr.toNat + k) = true → s.dutyBroken = false →
          value[k]? = some (Memory.read s.mem (addr.toNat + k)) ∨
          value[k]? = some (secretAt (deriveSecretScalar s.latch.seed) (addr.toNat + k - s.latch.dst.toNat))) ∧
        (¬ (s.deriveInFlight = true ∧ (writeRange s.latch).contains (addr.toNat + k) = true) →
          s.platform.volatile (addr.toNat + k) = false → value[k]? = some (Memory.read s.mem (addr.toNat + k)))
end

