-- ==== Sys2Proof/Laws/Memory.lean ====
section
/-! SUPPORT. Memory: a read after a write, the canonical form, and the bytes written through the bus. -/

namespace Sys2Proof.Machine

open Sys2Proof

theorem Memory.read_nil (a : Nat) : Memory.read [] a = Memory.blank := rfl

/-- An address below every listed one reads as unlisted. -/
theorem Memory.read_of_lt (m : Memory) (a : Nat) (h : ∀ c ∈ m, a < c.1) : Memory.read m a = Memory.blank := by
  induction m with
  | nil => rfl
  | cons c rest ih =>
    have hc : a < c.1 := h c (by simp)
    have hne : c.1 ≠ a := by omega
    simp only [Memory.read, hne, if_false]
    exact ih fun d hd => h d (by simp [hd])

/-- Where a byte of the written memory comes from. -/
theorem Memory.mem_write (m : Memory) (a : Nat) (v : Byte) (c : Host.Cell) (h : c ∈ Memory.write m a v) :
    (c = (a, v) ∧ v ≠ Memory.blank) ∨ c ∈ m := by
  induction m with
  | nil =>
    simp only [Memory.write] at h
    split_ifs at h with hv
    · simp at h
    · exact .inl ⟨by simpa using h, hv⟩
  | cons d rest ih =>
    simp only [Memory.write] at h
    split_ifs at h with h1 h2 h3 h4
    · exact .inr h
    · rcases List.mem_cons.1 h with rfl | h
      · exact .inl ⟨rfl, h2⟩
      · exact .inr h
    · exact .inr (by simp [h])
    · rcases List.mem_cons.1 h with rfl | h
      · exact .inl ⟨rfl, h4⟩
      · exact .inr (by simp [h])
    · rcases List.mem_cons.1 h with rfl | h
      · exact .inr (by simp)
      · rcases ih h with h | h
        · exact .inl h
        · exact .inr (by simp [h])

/-- A write keeps the canonical form. -/
theorem Memory.wf_write (m : Memory) (a : Nat) (v : Byte) (h : Memory.wf m) : Memory.wf (Memory.write m a v) := by
  obtain ⟨hs, hb⟩ := h
  refine ⟨?_, fun c hc => ?_⟩
  · induction m with
    | nil => simp only [Memory.write]; split_ifs <;> simp
    | cons d rest ih =>
      obtain ⟨hd, hr⟩ := List.pairwise_cons.1 hs
      simp only [Memory.write]
      split_ifs with h1 h2 h3 h4
      · exact hs
      · refine List.pairwise_cons.2 ⟨fun c hc => ?_, hs⟩
        rcases List.mem_cons.1 hc with rfl | hc
        · exact h1
        · exact Nat.lt_trans h1 (hd c hc)
      · exact hr
      · exact List.pairwise_cons.2 ⟨fun c hc => by simpa [h3] using hd c hc, hr⟩
      · refine List.pairwise_cons.2 ⟨fun c hc => ?_, ih hr fun c hc => hb c (by simp [hc])⟩
        rcases Memory.mem_write rest a v c hc with ⟨rfl, _⟩ | hc
        · show d.1 < a; omega
        · exact hd c hc
  · rcases Memory.mem_write m a v c hc with ⟨rfl, hv⟩ | hc
    · exact hv
    · exact hb c hc

/-- A read after a write: the written byte at its address, the old byte elsewhere. -/
theorem Memory.read_write (m : Memory) (a : Nat) (v : Byte) (b : Nat) (h : Memory.wf m) :
    Memory.read (Memory.write m a v) b = if b = a then v else Memory.read m b := by
  obtain ⟨hs, -⟩ := h
  induction m with
  | nil =>
    by_cases hb : b = a
    · by_cases hv : v = Memory.blank <;> simp [Memory.write, Memory.read, hv, hb]
    · by_cases hv : v = Memory.blank <;> simp [Memory.write, Memory.read, hv, hb, Ne.symm hb]
  | cons d rest ih =>
    obtain ⟨hd, hr⟩ := List.pairwise_cons.1 hs
    have below : ∀ x, x < d.1 → Memory.read rest x = Memory.blank := fun x hx =>
      Memory.read_of_lt rest x fun c hc => Nat.lt_trans hx (hd c hc)
    have self : Memory.read rest d.1 = Memory.blank := Memory.read_of_lt rest d.1 hd
    simp only [Memory.write]
    by_cases hb : b = a
    · subst hb
      rw [if_pos rfl]
      split_ifs with h1 h2 h3 h4
      · rw [h2, Memory.read, if_neg (by omega)]
        exact below b h1
      · simp [Memory.read]
      · rw [h4, h3]
        exact self
      · simp [Memory.read]
      · rw [Memory.read, if_neg (by omega), ih hr, if_pos rfl]
    · rw [if_neg hb]
      split_ifs with h1 h2 h3 h4
      · rfl
      · rw [Memory.read, if_neg (Ne.symm hb)]
      · rw [Memory.read, if_neg (by omega)]
      · rw [Memory.read, Memory.read, if_neg (Ne.symm hb), if_neg (by omega)]
      · simp only [Memory.read, ih hr, if_neg hb]

/-! Bytes written through the bus. -/

/-- The address holds a byte the bus can write: inside the address space and not in the register block. -/
def busWritable (p : Platform) (a : Nat) : Prop := p.block.contains a = false ∧ a < p.addrLimit

theorem busWriteByte_wf (p : Platform) (m : Memory) (a : Nat) (v : Byte) (h : Memory.wf m) :
    Memory.wf (busWriteByte p m a v) := by
  unfold busWriteByte
  split_ifs
  · exact h
  · exact Memory.wf_write m a v h

theorem busWriteBytes_wf (p : Platform) (a : Nat) (f : Nat → Byte) (n : Nat) (m : Memory) (h : Memory.wf m) :
    Memory.wf (busWriteBytes p a f n m) := by
  induction n with
  | zero => exact h
  | succ n ih => exact busWriteByte_wf p _ _ _ ih

/-- What a bus write of one byte leaves at every address. -/
theorem busWriteByte_read (p : Platform) (m : Memory) (a : Nat) (v : Byte) (b : Nat) (h : Memory.wf m) :
    Memory.read (busWriteByte p m a v) b =
      if b = a ∧ p.block.contains b = false ∧ b < p.addrLimit then v else Memory.read m b := by
  unfold busWriteByte
  by_cases hb : b = a
  · subst hb
    by_cases h1 : p.block.contains b = true <;> by_cases h2 : p.addrLimit ≤ b <;>
      simp [h1, h2, Memory.read_write m b v b h]
  · by_cases h1 : p.block.contains a = true <;> by_cases h2 : p.addrLimit ≤ a <;>
      simp [h1, h2, hb, Memory.read_write m a v b h]

/-- What a bus write of `n` bytes leaves at every address: the written byte inside the window where the bus can write, the
old byte everywhere else. -/
theorem busWriteBytes_read (p : Platform) (a : Nat) (f : Nat → Byte) (n : Nat) (m : Memory) (b : Nat) (h : Memory.wf m) :
    Memory.read (busWriteBytes p a f n m) b =
      if a ≤ b ∧ b < a + n ∧ p.block.contains b = false ∧ b < p.addrLimit then f (b - a) else Memory.read m b := by
  induction n with
  | zero => rw [if_neg (by omega), busWriteBytes]
  | succ n ih =>
    rw [busWriteBytes, busWriteByte_read p _ _ _ _ (busWriteBytes_wf p a f n m h), ih]
    by_cases h1 : b = a + n
    · subst h1
      by_cases h2 : p.block.contains (a + n) = false ∧ a + n < p.addrLimit
      · simp [h2]
      · simp [h2]
    · have : (a ≤ b ∧ b < a + (n + 1) ∧ p.block.contains b = false ∧ b < p.addrLimit) ↔
          (a ≤ b ∧ b < a + n ∧ p.block.contains b = false ∧ b < p.addrLimit) := by
        constructor <;> rintro ⟨h2, h3, h4⟩ <;> exact ⟨h2, by omega, h4⟩
      simp only [h1, false_and, if_false, this]

/-- A listed byte after a bus write was listed before or lies where the bus can write. -/
theorem busWriteByte_mem (p : Platform) (m : Memory) (a : Nat) (v : Byte) (c : Host.Cell)
    (h : c ∈ busWriteByte p m a v) : busWritable p c.1 ∨ c ∈ m := by
  unfold busWriteByte at h
  split_ifs at h with hc
  · exact .inr h
  · rcases Memory.mem_write m a v c h with ⟨rfl, -⟩ | h
    · left
      simp only [Bool.or_eq_true, decide_eq_true_eq, not_or] at hc
      exact ⟨by simpa using hc.1, by simpa using hc.2⟩
    · exact .inr h

theorem busWriteBytes_mem (p : Platform) (a : Nat) (f : Nat → Byte) (n : Nat) (m : Memory) (c : Host.Cell)
    (h : c ∈ busWriteBytes p a f n m) : busWritable p c.1 ∨ c ∈ m := by
  induction n with
  | zero => exact .inr h
  | succ n ih =>
    rcases busWriteByte_mem p _ _ _ c h with h | h
    · exact .inl h
    · exact ih h

end Sys2Proof.Machine
end

