-- ==== Sys2Proof/Laws/State.lean ====
section
/-! SUPPORT. The fields of each update of State, one lemma per field, so that no proof unfolds a record update. -/

namespace Sys2Proof.Machine

open Sys2Proof

@[simp] theorem State.syncIrq_platform (s : State) : (s.syncIrq).platform = s.platform := rfl
@[simp] theorem State.syncIrq_ctrl (s : State) : (s.syncIrq).ctrl = s.ctrl := rfl
@[simp] theorem State.syncIrq_status (s : State) : (s.syncIrq).status = s.status := rfl
@[simp] theorem State.syncIrq_srcAddr (s : State) : (s.syncIrq).srcAddr = s.srcAddr := rfl
@[simp] theorem State.syncIrq_len (s : State) : (s.syncIrq).len = s.len := rfl
@[simp] theorem State.syncIrq_seed (s : State) : (s.syncIrq).seed = s.seed := rfl
@[simp] theorem State.syncIrq_secretAddr (s : State) : (s.syncIrq).secretAddr = s.secretAddr := rfl
@[simp] theorem State.syncIrq_secretLen (s : State) : (s.syncIrq).secretLen = s.secretLen := rfl
@[simp] theorem State.syncIrq_dstAddr (s : State) : (s.syncIrq).dstAddr = s.dstAddr := rfl
@[simp] theorem State.syncIrq_resultLo (s : State) : (s.syncIrq).resultLo = s.resultLo := rfl
@[simp] theorem State.syncIrq_resultHi (s : State) : (s.syncIrq).resultHi = s.resultHi := rfl
@[simp] theorem State.syncIrq_phase (s : State) : (s.syncIrq).phase = s.phase := rfl
@[simp] theorem State.syncIrq_latch (s : State) : (s.syncIrq).latch = s.latch := rfl
@[simp] theorem State.syncIrq_acc (s : State) : (s.syncIrq).acc = s.acc := rfl
@[simp] theorem State.syncIrq_cs (s : State) : (s.syncIrq).cs = s.cs := rfl
@[simp] theorem State.syncIrq_irq (s : State) : (s.syncIrq).irq = irqLevel s.ctrl s.status := rfl
@[simp] theorem State.syncIrq_mem (s : State) : (s.syncIrq).mem = s.mem := rfl
@[simp] theorem State.syncIrq_dutyBroken (s : State) : (s.syncIrq).dutyBroken = s.dutyBroken := rfl
@[simp] theorem State.syncIrq_draws (s : State) : (s.syncIrq).draws = s.draws := rfl
@[simp] theorem State.syncIrq_hosts (s : State) : (s.syncIrq).hosts = s.hosts := rfl
@[simp] theorem State.syncIrq_schedule (s : State) : (s.syncIrq).schedule = s.schedule := rfl

@[simp] theorem State.issue_platform (s : State) (w : Word) : (s.issue w).platform = s.platform := rfl
@[simp] theorem State.issue_ctrl (s : State) (w : Word) : (s.issue w).ctrl = s.ctrl := rfl
@[simp] theorem State.issue_status (s : State) (w : Word) : (s.issue w).status = statusIssue s.status := rfl
@[simp] theorem State.issue_srcAddr (s : State) (w : Word) : (s.issue w).srcAddr = s.srcAddr := rfl
@[simp] theorem State.issue_len (s : State) (w : Word) : (s.issue w).len = s.len := rfl
@[simp] theorem State.issue_seed (s : State) (w : Word) : (s.issue w).seed = s.seed := rfl
@[simp] theorem State.issue_secretAddr (s : State) (w : Word) : (s.issue w).secretAddr = s.secretAddr := rfl
@[simp] theorem State.issue_secretLen (s : State) (w : Word) : (s.issue w).secretLen = s.secretLen := rfl
@[simp] theorem State.issue_dstAddr (s : State) (w : Word) : (s.issue w).dstAddr = s.dstAddr := rfl
@[simp] theorem State.issue_resultLo (s : State) (w : Word) : (s.issue w).resultLo = s.resultLo := rfl
@[simp] theorem State.issue_resultHi (s : State) (w : Word) : (s.issue w).resultHi = s.resultHi := rfl
@[simp] theorem State.issue_phase (s : State) (w : Word) : (s.issue w).phase = Phase.busy := rfl
@[simp] theorem State.issue_latch (s : State) (w : Word) : (s.issue w).latch = s.latched w := rfl
@[simp] theorem State.issue_acc (s : State) (w : Word) : (s.issue w).acc = s.acc := rfl
@[simp] theorem State.issue_cs (s : State) (w : Word) : (s.issue w).cs = s.cs := rfl
@[simp] theorem State.issue_irq (s : State) (w : Word) : (s.issue w).irq = irqLevel s.ctrl (statusIssue s.status) := rfl
@[simp] theorem State.issue_mem (s : State) (w : Word) : (s.issue w).mem = s.mem := rfl
@[simp] theorem State.issue_dutyBroken (s : State) (w : Word) : (s.issue w).dutyBroken = false := rfl
@[simp] theorem State.issue_draws (s : State) (w : Word) : (s.issue w).draws = s.draws := rfl
@[simp] theorem State.issue_hosts (s : State) (w : Word) : (s.issue w).hosts = s.hosts := rfl
@[simp] theorem State.issue_schedule (s : State) (w : Word) : (s.issue w).schedule = s.schedule := rfl

@[simp] theorem State.overrun_platform (s : State) : (s.overrun).platform = s.platform := rfl
@[simp] theorem State.overrun_ctrl (s : State) : (s.overrun).ctrl = s.ctrl := rfl
@[simp] theorem State.overrun_status (s : State) : (s.overrun).status = statusOverrun s.status := rfl
@[simp] theorem State.overrun_srcAddr (s : State) : (s.overrun).srcAddr = s.srcAddr := rfl
@[simp] theorem State.overrun_len (s : State) : (s.overrun).len = s.len := rfl
@[simp] theorem State.overrun_seed (s : State) : (s.overrun).seed = s.seed := rfl
@[simp] theorem State.overrun_secretAddr (s : State) : (s.overrun).secretAddr = s.secretAddr := rfl
@[simp] theorem State.overrun_secretLen (s : State) : (s.overrun).secretLen = s.secretLen := rfl
@[simp] theorem State.overrun_dstAddr (s : State) : (s.overrun).dstAddr = s.dstAddr := rfl
@[simp] theorem State.overrun_resultLo (s : State) : (s.overrun).resultLo = s.resultLo := rfl
@[simp] theorem State.overrun_resultHi (s : State) : (s.overrun).resultHi = s.resultHi := rfl
@[simp] theorem State.overrun_phase (s : State) : (s.overrun).phase = s.phase := rfl
@[simp] theorem State.overrun_latch (s : State) : (s.overrun).latch = s.latch := rfl
@[simp] theorem State.overrun_acc (s : State) : (s.overrun).acc = s.acc := rfl
@[simp] theorem State.overrun_cs (s : State) : (s.overrun).cs = s.cs := rfl
@[simp] theorem State.overrun_irq (s : State) : (s.overrun).irq = s.irq := rfl
@[simp] theorem State.overrun_mem (s : State) : (s.overrun).mem = s.mem := rfl
@[simp] theorem State.overrun_dutyBroken (s : State) : (s.overrun).dutyBroken = s.dutyBroken := rfl
@[simp] theorem State.overrun_draws (s : State) : (s.overrun).draws = s.draws := rfl
@[simp] theorem State.overrun_hosts (s : State) : (s.overrun).hosts = s.hosts := rfl
@[simp] theorem State.overrun_schedule (s : State) : (s.overrun).schedule = s.schedule := rfl

@[simp] theorem State.complete_platform (s : State) (c : ErrorCode) : (s.complete c).platform = s.platform := rfl
@[simp] theorem State.complete_ctrl (s : State) (c : ErrorCode) : (s.complete c).ctrl = s.ctrl := rfl
@[simp] theorem State.complete_status (s : State) (c : ErrorCode) : (s.complete c).status = statusComplete s.status c s.latch.backend := rfl
@[simp] theorem State.complete_srcAddr (s : State) (c : ErrorCode) : (s.complete c).srcAddr = s.srcAddr := rfl
@[simp] theorem State.complete_len (s : State) (c : ErrorCode) : (s.complete c).len = s.len := rfl
@[simp] theorem State.complete_seed (s : State) (c : ErrorCode) : (s.complete c).seed = s.seed := rfl
@[simp] theorem State.complete_secretAddr (s : State) (c : ErrorCode) : (s.complete c).secretAddr = s.secretAddr := rfl
@[simp] theorem State.complete_secretLen (s : State) (c : ErrorCode) : (s.complete c).secretLen = s.secretLen := rfl
@[simp] theorem State.complete_dstAddr (s : State) (c : ErrorCode) : (s.complete c).dstAddr = s.dstAddr := rfl
@[simp] theorem State.complete_resultLo (s : State) (c : ErrorCode) : (s.complete c).resultLo = s.resultLo := rfl
@[simp] theorem State.complete_resultHi (s : State) (c : ErrorCode) : (s.complete c).resultHi = s.resultHi := rfl
@[simp] theorem State.complete_phase (s : State) (c : ErrorCode) : (s.complete c).phase = Phase.idle := rfl
@[simp] theorem State.complete_latch (s : State) (c : ErrorCode) : (s.complete c).latch = latchUnspecified s.draws := rfl
@[simp] theorem State.complete_acc (s : State) (c : ErrorCode) : (s.complete c).acc = accUnspecified s.draws := rfl
@[simp] theorem State.complete_cs (s : State) (c : ErrorCode) : (s.complete c).cs = secretUnspecified s.draws := rfl
@[simp] theorem State.complete_irq (s : State) (c : ErrorCode) : (s.complete c).irq = irqLevel s.ctrl (statusComplete s.status c s.latch.backend) := rfl
@[simp] theorem State.complete_mem (s : State) (c : ErrorCode) : (s.complete c).mem = s.mem := rfl
@[simp] theorem State.complete_dutyBroken (s : State) (c : ErrorCode) : (s.complete c).dutyBroken = false := rfl
@[simp] theorem State.complete_draws (s : State) (c : ErrorCode) : (s.complete c).draws = s.draws + 1 := rfl
@[simp] theorem State.complete_hosts (s : State) (c : ErrorCode) : (s.complete c).hosts = s.hosts := rfl
@[simp] theorem State.complete_schedule (s : State) (c : ErrorCode) : (s.complete c).schedule = s.schedule := rfl

@[simp] theorem State.writeWindow_platform (s : State) (f : Nat → Byte) : (s.writeWindow f).platform = s.platform := rfl
@[simp] theorem State.writeWindow_ctrl (s : State) (f : Nat → Byte) : (s.writeWindow f).ctrl = s.ctrl := rfl
@[simp] theorem State.writeWindow_status (s : State) (f : Nat → Byte) : (s.writeWindow f).status = s.status := rfl
@[simp] theorem State.writeWindow_srcAddr (s : State) (f : Nat → Byte) : (s.writeWindow f).srcAddr = s.srcAddr := rfl
@[simp] theorem State.writeWindow_len (s : State) (f : Nat → Byte) : (s.writeWindow f).len = s.len := rfl
@[simp] theorem State.writeWindow_seed (s : State) (f : Nat → Byte) : (s.writeWindow f).seed = s.seed := rfl
@[simp] theorem State.writeWindow_secretAddr (s : State) (f : Nat → Byte) : (s.writeWindow f).secretAddr = s.secretAddr := rfl
@[simp] theorem State.writeWindow_secretLen (s : State) (f : Nat → Byte) : (s.writeWindow f).secretLen = s.secretLen := rfl
@[simp] theorem State.writeWindow_dstAddr (s : State) (f : Nat → Byte) : (s.writeWindow f).dstAddr = s.dstAddr := rfl
@[simp] theorem State.writeWindow_resultLo (s : State) (f : Nat → Byte) : (s.writeWindow f).resultLo = s.resultLo := rfl
@[simp] theorem State.writeWindow_resultHi (s : State) (f : Nat → Byte) : (s.writeWindow f).resultHi = s.resultHi := rfl
@[simp] theorem State.writeWindow_phase (s : State) (f : Nat → Byte) : (s.writeWindow f).phase = s.phase := rfl
@[simp] theorem State.writeWindow_latch (s : State) (f : Nat → Byte) : (s.writeWindow f).latch = s.latch := rfl
@[simp] theorem State.writeWindow_acc (s : State) (f : Nat → Byte) : (s.writeWindow f).acc = s.acc := rfl
@[simp] theorem State.writeWindow_cs (s : State) (f : Nat → Byte) : (s.writeWindow f).cs = s.cs := rfl
@[simp] theorem State.writeWindow_irq (s : State) (f : Nat → Byte) : (s.writeWindow f).irq = s.irq := rfl
@[simp] theorem State.writeWindow_mem (s : State) (f : Nat → Byte) : (s.writeWindow f).mem = busWriteBytes s.platform s.latch.dst.toNat f secretDefaultSize s.mem := rfl
@[simp] theorem State.writeWindow_dutyBroken (s : State) (f : Nat → Byte) : (s.writeWindow f).dutyBroken = s.dutyBroken := rfl
@[simp] theorem State.writeWindow_draws (s : State) (f : Nat → Byte) : (s.writeWindow f).draws = s.draws := rfl
@[simp] theorem State.writeWindow_hosts (s : State) (f : Nat → Byte) : (s.writeWindow f).hosts = s.hosts := rfl
@[simp] theorem State.writeWindow_schedule (s : State) (f : Nat → Byte) : (s.writeWindow f).schedule = s.schedule := rfl

@[simp] theorem State.putHost_platform (s : State) (n : Nat) (h : HostAgent) : (s.putHost n h).platform = s.platform := rfl
@[simp] theorem State.putHost_ctrl (s : State) (n : Nat) (h : HostAgent) : (s.putHost n h).ctrl = s.ctrl := rfl
@[simp] theorem State.putHost_status (s : State) (n : Nat) (h : HostAgent) : (s.putHost n h).status = s.status := rfl
@[simp] theorem State.putHost_srcAddr (s : State) (n : Nat) (h : HostAgent) : (s.putHost n h).srcAddr = s.srcAddr := rfl
@[simp] theorem State.putHost_len (s : State) (n : Nat) (h : HostAgent) : (s.putHost n h).len = s.len := rfl
@[simp] theorem State.putHost_seed (s : State) (n : Nat) (h : HostAgent) : (s.putHost n h).seed = s.seed := rfl
@[simp] theorem State.putHost_secretAddr (s : State) (n : Nat) (h : HostAgent) : (s.putHost n h).secretAddr = s.secretAddr := rfl
@[simp] theorem State.putHost_secretLen (s : State) (n : Nat) (h : HostAgent) : (s.putHost n h).secretLen = s.secretLen := rfl
@[simp] theorem State.putHost_dstAddr (s : State) (n : Nat) (h : HostAgent) : (s.putHost n h).dstAddr = s.dstAddr := rfl
@[simp] theorem State.putHost_resultLo (s : State) (n : Nat) (h : HostAgent) : (s.putHost n h).resultLo = s.resultLo := rfl
@[simp] theorem State.putHost_resultHi (s : State) (n : Nat) (h : HostAgent) : (s.putHost n h).resultHi = s.resultHi := rfl
@[simp] theorem State.putHost_phase (s : State) (n : Nat) (h : HostAgent) : (s.putHost n h).phase = s.phase := rfl
@[simp] theorem State.putHost_latch (s : State) (n : Nat) (h : HostAgent) : (s.putHost n h).latch = s.latch := rfl
@[simp] theorem State.putHost_acc (s : State) (n : Nat) (h : HostAgent) : (s.putHost n h).acc = s.acc := rfl
@[simp] theorem State.putHost_cs (s : State) (n : Nat) (h : HostAgent) : (s.putHost n h).cs = s.cs := rfl
@[simp] theorem State.putHost_irq (s : State) (n : Nat) (h : HostAgent) : (s.putHost n h).irq = s.irq := rfl
@[simp] theorem State.putHost_mem (s : State) (n : Nat) (h : HostAgent) : (s.putHost n h).mem = s.mem := rfl
@[simp] theorem State.putHost_dutyBroken (s : State) (n : Nat) (h : HostAgent) : (s.putHost n h).dutyBroken = s.dutyBroken := rfl
@[simp] theorem State.putHost_draws (s : State) (n : Nat) (h : HostAgent) : (s.putHost n h).draws = s.draws := rfl
@[simp] theorem State.putHost_hosts (s : State) (n : Nat) (h : HostAgent) : (s.putHost n h).hosts = s.hosts.set n h := rfl
@[simp] theorem State.putHost_schedule (s : State) (n : Nat) (h : HostAgent) : (s.putHost n h).schedule = s.schedule := rfl

@[simp] theorem State.hostStore_platform (s : State) (a : Word) (bs : List Byte) : (s.hostStore a bs).platform = s.platform := rfl
@[simp] theorem State.hostStore_ctrl (s : State) (a : Word) (bs : List Byte) : (s.hostStore a bs).ctrl = s.ctrl := rfl
@[simp] theorem State.hostStore_status (s : State) (a : Word) (bs : List Byte) : (s.hostStore a bs).status = s.status := rfl
@[simp] theorem State.hostStore_srcAddr (s : State) (a : Word) (bs : List Byte) : (s.hostStore a bs).srcAddr = s.srcAddr := rfl
@[simp] theorem State.hostStore_len (s : State) (a : Word) (bs : List Byte) : (s.hostStore a bs).len = s.len := rfl
@[simp] theorem State.hostStore_seed (s : State) (a : Word) (bs : List Byte) : (s.hostStore a bs).seed = s.seed := rfl
@[simp] theorem State.hostStore_secretAddr (s : State) (a : Word) (bs : List Byte) : (s.hostStore a bs).secretAddr = s.secretAddr := rfl
@[simp] theorem State.hostStore_secretLen (s : State) (a : Word) (bs : List Byte) : (s.hostStore a bs).secretLen = s.secretLen := rfl
@[simp] theorem State.hostStore_dstAddr (s : State) (a : Word) (bs : List Byte) : (s.hostStore a bs).dstAddr = s.dstAddr := rfl
@[simp] theorem State.hostStore_resultLo (s : State) (a : Word) (bs : List Byte) : (s.hostStore a bs).resultLo = s.resultLo := rfl
@[simp] theorem State.hostStore_resultHi (s : State) (a : Word) (bs : List Byte) : (s.hostStore a bs).resultHi = s.resultHi := rfl
@[simp] theorem State.hostStore_phase (s : State) (a : Word) (bs : List Byte) : (s.hostStore a bs).phase = s.phase := rfl
@[simp] theorem State.hostStore_latch (s : State) (a : Word) (bs : List Byte) : (s.hostStore a bs).latch = s.latch := rfl
@[simp] theorem State.hostStore_acc (s : State) (a : Word) (bs : List Byte) : (s.hostStore a bs).acc = s.acc := rfl
@[simp] theorem State.hostStore_cs (s : State) (a : Word) (bs : List Byte) : (s.hostStore a bs).cs = s.cs := rfl
@[simp] theorem State.hostStore_irq (s : State) (a : Word) (bs : List Byte) : (s.hostStore a bs).irq = s.irq := rfl
@[simp] theorem State.hostStore_mem (s : State) (a : Word) (bs : List Byte) : (s.hostStore a bs).mem = busWriteList s.platform a.toNat bs s.mem := rfl
@[simp] theorem State.hostStore_dutyBroken (s : State) (a : Word) (bs : List Byte) : (s.hostStore a bs).dutyBroken = (s.dutyBroken || s.breaksDuty (accessRegion a bs.length)) := rfl
@[simp] theorem State.hostStore_draws (s : State) (a : Word) (bs : List Byte) : (s.hostStore a bs).draws = s.draws := rfl
@[simp] theorem State.hostStore_hosts (s : State) (a : Word) (bs : List Byte) : (s.hostStore a bs).hosts = s.hosts := rfl
@[simp] theorem State.hostStore_schedule (s : State) (a : Word) (bs : List Byte) : (s.hostStore a bs).schedule = s.schedule := rfl

@[simp] theorem State.popTurn_platform (s : State) : (s.popTurn).platform = s.platform := rfl
@[simp] theorem State.popTurn_ctrl (s : State) : (s.popTurn).ctrl = s.ctrl := rfl
@[simp] theorem State.popTurn_status (s : State) : (s.popTurn).status = s.status := rfl
@[simp] theorem State.popTurn_srcAddr (s : State) : (s.popTurn).srcAddr = s.srcAddr := rfl
@[simp] theorem State.popTurn_len (s : State) : (s.popTurn).len = s.len := rfl
@[simp] theorem State.popTurn_seed (s : State) : (s.popTurn).seed = s.seed := rfl
@[simp] theorem State.popTurn_secretAddr (s : State) : (s.popTurn).secretAddr = s.secretAddr := rfl
@[simp] theorem State.popTurn_secretLen (s : State) : (s.popTurn).secretLen = s.secretLen := rfl
@[simp] theorem State.popTurn_dstAddr (s : State) : (s.popTurn).dstAddr = s.dstAddr := rfl
@[simp] theorem State.popTurn_resultLo (s : State) : (s.popTurn).resultLo = s.resultLo := rfl
@[simp] theorem State.popTurn_resultHi (s : State) : (s.popTurn).resultHi = s.resultHi := rfl
@[simp] theorem State.popTurn_phase (s : State) : (s.popTurn).phase = s.phase := rfl
@[simp] theorem State.popTurn_latch (s : State) : (s.popTurn).latch = s.latch := rfl
@[simp] theorem State.popTurn_acc (s : State) : (s.popTurn).acc = s.acc := rfl
@[simp] theorem State.popTurn_cs (s : State) : (s.popTurn).cs = s.cs := rfl
@[simp] theorem State.popTurn_irq (s : State) : (s.popTurn).irq = s.irq := rfl
@[simp] theorem State.popTurn_mem (s : State) : (s.popTurn).mem = s.mem := rfl
@[simp] theorem State.popTurn_dutyBroken (s : State) : (s.popTurn).dutyBroken = s.dutyBroken := rfl
@[simp] theorem State.popTurn_draws (s : State) : (s.popTurn).draws = s.draws := rfl
@[simp] theorem State.popTurn_hosts (s : State) : (s.popTurn).hosts = s.hosts := rfl
@[simp] theorem State.popTurn_schedule (s : State) : (s.popTurn).schedule = s.schedule.drop 1 := rfl

@[simp] theorem State.withIssued_platform (s : State) (w : Word) : (s.withIssued w).platform = s.platform := rfl
@[simp] theorem State.withIssued_ctrl (s : State) (w : Word) : (s.withIssued w).ctrl = s.ctrl := rfl
@[simp] theorem State.withIssued_status (s : State) (w : Word) : (s.withIssued w).status = statusIssue s.status := rfl
@[simp] theorem State.withIssued_srcAddr (s : State) (w : Word) : (s.withIssued w).srcAddr = s.srcAddr := rfl
@[simp] theorem State.withIssued_len (s : State) (w : Word) : (s.withIssued w).len = s.len := rfl
@[simp] theorem State.withIssued_seed (s : State) (w : Word) : (s.withIssued w).seed = s.seed := rfl
@[simp] theorem State.withIssued_secretAddr (s : State) (w : Word) : (s.withIssued w).secretAddr = s.secretAddr := rfl
@[simp] theorem State.withIssued_secretLen (s : State) (w : Word) : (s.withIssued w).secretLen = s.secretLen := rfl
@[simp] theorem State.withIssued_dstAddr (s : State) (w : Word) : (s.withIssued w).dstAddr = s.dstAddr := rfl
@[simp] theorem State.withIssued_resultLo (s : State) (w : Word) : (s.withIssued w).resultLo = s.resultLo := rfl
@[simp] theorem State.withIssued_resultHi (s : State) (w : Word) : (s.withIssued w).resultHi = s.resultHi := rfl
@[simp] theorem State.withIssued_phase (s : State) (w : Word) : (s.withIssued w).phase = Phase.busy := rfl
@[simp] theorem State.withIssued_latch (s : State) (w : Word) : (s.withIssued w).latch = s.latched w := rfl
@[simp] theorem State.withIssued_acc (s : State) (w : Word) : (s.withIssued w).acc = s.acc := rfl
@[simp] theorem State.withIssued_cs (s : State) (w : Word) : (s.withIssued w).cs = s.cs := rfl
@[simp] theorem State.withIssued_irq (s : State) (w : Word) : (s.withIssued w).irq = irqLevel s.ctrl (statusIssue s.status) := rfl
@[simp] theorem State.withIssued_mem (s : State) (w : Word) : (s.withIssued w).mem = s.mem := rfl
@[simp] theorem State.withIssued_dutyBroken (s : State) (w : Word) : (s.withIssued w).dutyBroken = false := rfl
@[simp] theorem State.withIssued_draws (s : State) (w : Word) : (s.withIssued w).draws = s.draws := rfl
@[simp] theorem State.withIssued_hosts (s : State) (w : Word) : (s.withIssued w).hosts = s.hosts := rfl
@[simp] theorem State.withIssued_schedule (s : State) (w : Word) : (s.withIssued w).schedule = Turn.engine :: s.schedule := rfl

@[simp] theorem State.resetEngine_platform (s : State) : s.resetEngine.platform = s.platform := rfl
@[simp] theorem State.resetEngine_ctrl (s : State) : s.resetEngine.ctrl = ⟨.auto, false⟩ := rfl
@[simp] theorem State.resetEngine_status (s : State) : s.resetEngine.status = ⟨false, false, false, .none, none⟩ := rfl
@[simp] theorem State.resetEngine_srcAddr (s : State) : s.resetEngine.srcAddr = 0#64 := rfl
@[simp] theorem State.resetEngine_len (s : State) : s.resetEngine.len = 0#64 := rfl
@[simp] theorem State.resetEngine_seed (s : State) : s.resetEngine.seed = 0#64 := rfl
@[simp] theorem State.resetEngine_secretAddr (s : State) : s.resetEngine.secretAddr = 0#64 := rfl
@[simp] theorem State.resetEngine_secretLen (s : State) : s.resetEngine.secretLen = 0#64 := rfl
@[simp] theorem State.resetEngine_dstAddr (s : State) : s.resetEngine.dstAddr = 0#64 := rfl
@[simp] theorem State.resetEngine_resultLo (s : State) : s.resetEngine.resultLo = 0#64 := rfl
@[simp] theorem State.resetEngine_resultHi (s : State) : s.resetEngine.resultHi = 0#64 := rfl
@[simp] theorem State.resetEngine_phase (s : State) : s.resetEngine.phase = .idle := rfl
@[simp] theorem State.resetEngine_latch (s : State) : s.resetEngine.latch = State.reset.latch := rfl
@[simp] theorem State.resetEngine_acc (s : State) : s.resetEngine.acc = State.reset.acc := rfl
@[simp] theorem State.resetEngine_cs (s : State) : s.resetEngine.cs = State.reset.cs := rfl
@[simp] theorem State.resetEngine_irq (s : State) : s.resetEngine.irq = false := rfl
@[simp] theorem State.resetEngine_mem (s : State) : s.resetEngine.mem = s.abortedMemory := rfl
@[simp] theorem State.resetEngine_dutyBroken (s : State) : s.resetEngine.dutyBroken = false := rfl
@[simp] theorem State.resetEngine_draws (s : State) : s.resetEngine.draws = s.draws + 1 := rfl
@[simp] theorem State.resetEngine_hosts (s : State) : s.resetEngine.hosts = s.hosts := rfl
@[simp] theorem State.resetEngine_schedule (s : State) : s.resetEngine.schedule = s.schedule := rfl

/-! Updates with a choice: the fields no branch touches. -/

@[simp] theorem State.deliver_platform (s : State) (c : ErrorCode) (lo hi : Word) : (s.deliver c lo hi).platform = s.platform := by
  unfold State.deliver; split_ifs <;> rfl
@[simp] theorem State.deliver_ctrl (s : State) (c : ErrorCode) (lo hi : Word) : (s.deliver c lo hi).ctrl = s.ctrl := by
  unfold State.deliver; split_ifs <;> rfl
@[simp] theorem State.deliver_status (s : State) (c : ErrorCode) (lo hi : Word) : (s.deliver c lo hi).status = s.status := by
  unfold State.deliver; split_ifs <;> rfl
@[simp] theorem State.deliver_srcAddr (s : State) (c : ErrorCode) (lo hi : Word) : (s.deliver c lo hi).srcAddr = s.srcAddr := by
  unfold State.deliver; split_ifs <;> rfl
@[simp] theorem State.deliver_len (s : State) (c : ErrorCode) (lo hi : Word) : (s.deliver c lo hi).len = s.len := by
  unfold State.deliver; split_ifs <;> rfl
@[simp] theorem State.deliver_seed (s : State) (c : ErrorCode) (lo hi : Word) : (s.deliver c lo hi).seed = s.seed := by
  unfold State.deliver; split_ifs <;> rfl
@[simp] theorem State.deliver_secretAddr (s : State) (c : ErrorCode) (lo hi : Word) : (s.deliver c lo hi).secretAddr = s.secretAddr := by
  unfold State.deliver; split_ifs <;> rfl
@[simp] theorem State.deliver_secretLen (s : State) (c : ErrorCode) (lo hi : Word) : (s.deliver c lo hi).secretLen = s.secretLen := by
  unfold State.deliver; split_ifs <;> rfl
@[simp] theorem State.deliver_dstAddr (s : State) (c : ErrorCode) (lo hi : Word) : (s.deliver c lo hi).dstAddr = s.dstAddr := by
  unfold State.deliver; split_ifs <;> rfl
@[simp] theorem State.deliver_phase (s : State) (c : ErrorCode) (lo hi : Word) : (s.deliver c lo hi).phase = s.phase := by
  unfold State.deliver; split_ifs <;> rfl
@[simp] theorem State.deliver_latch (s : State) (c : ErrorCode) (lo hi : Word) : (s.deliver c lo hi).latch = s.latch := by
  unfold State.deliver; split_ifs <;> rfl
@[simp] theorem State.deliver_acc (s : State) (c : ErrorCode) (lo hi : Word) : (s.deliver c lo hi).acc = s.acc := by
  unfold State.deliver; split_ifs <;> rfl
@[simp] theorem State.deliver_cs (s : State) (c : ErrorCode) (lo hi : Word) : (s.deliver c lo hi).cs = s.cs := by
  unfold State.deliver; split_ifs <;> rfl
@[simp] theorem State.deliver_irq (s : State) (c : ErrorCode) (lo hi : Word) : (s.deliver c lo hi).irq = s.irq := by
  unfold State.deliver; split_ifs <;> rfl
@[simp] theorem State.deliver_mem (s : State) (c : ErrorCode) (lo hi : Word) : (s.deliver c lo hi).mem = s.mem := by
  unfold State.deliver; split_ifs <;> rfl
@[simp] theorem State.deliver_dutyBroken (s : State) (c : ErrorCode) (lo hi : Word) : (s.deliver c lo hi).dutyBroken = s.dutyBroken := by
  unfold State.deliver; split_ifs <;> rfl
@[simp] theorem State.deliver_draws (s : State) (c : ErrorCode) (lo hi : Word) : (s.deliver c lo hi).draws = s.draws := by
  unfold State.deliver; split_ifs <;> rfl
@[simp] theorem State.deliver_hosts (s : State) (c : ErrorCode) (lo hi : Word) : (s.deliver c lo hi).hosts = s.hosts := by
  unfold State.deliver; split_ifs <;> rfl
@[simp] theorem State.deliver_schedule (s : State) (c : ErrorCode) (lo hi : Word) : (s.deliver c lo hi).schedule = s.schedule := by
  unfold State.deliver; split_ifs <;> rfl

@[simp] theorem State.deriveWrites_platform (s : State) (c : ErrorCode) : (s.deriveWrites c).platform = s.platform := by
  unfold State.deriveWrites; split_ifs <;> cases c <;> rfl
@[simp] theorem State.deriveWrites_ctrl (s : State) (c : ErrorCode) : (s.deriveWrites c).ctrl = s.ctrl := by
  unfold State.deriveWrites; split_ifs <;> cases c <;> rfl
@[simp] theorem State.deriveWrites_status (s : State) (c : ErrorCode) : (s.deriveWrites c).status = s.status := by
  unfold State.deriveWrites; split_ifs <;> cases c <;> rfl
@[simp] theorem State.deriveWrites_srcAddr (s : State) (c : ErrorCode) : (s.deriveWrites c).srcAddr = s.srcAddr := by
  unfold State.deriveWrites; split_ifs <;> cases c <;> rfl
@[simp] theorem State.deriveWrites_len (s : State) (c : ErrorCode) : (s.deriveWrites c).len = s.len := by
  unfold State.deriveWrites; split_ifs <;> cases c <;> rfl
@[simp] theorem State.deriveWrites_seed (s : State) (c : ErrorCode) : (s.deriveWrites c).seed = s.seed := by
  unfold State.deriveWrites; split_ifs <;> cases c <;> rfl
@[simp] theorem State.deriveWrites_secretAddr (s : State) (c : ErrorCode) : (s.deriveWrites c).secretAddr = s.secretAddr := by
  unfold State.deriveWrites; split_ifs <;> cases c <;> rfl
@[simp] theorem State.deriveWrites_secretLen (s : State) (c : ErrorCode) : (s.deriveWrites c).secretLen = s.secretLen := by
  unfold State.deriveWrites; split_ifs <;> cases c <;> rfl
@[simp] theorem State.deriveWrites_dstAddr (s : State) (c : ErrorCode) : (s.deriveWrites c).dstAddr = s.dstAddr := by
  unfold State.deriveWrites; split_ifs <;> cases c <;> rfl
@[simp] theorem State.deriveWrites_resultLo (s : State) (c : ErrorCode) : (s.deriveWrites c).resultLo = s.resultLo := by
  unfold State.deriveWrites; split_ifs <;> cases c <;> rfl
@[simp] theorem State.deriveWrites_resultHi (s : State) (c : ErrorCode) : (s.deriveWrites c).resultHi = s.resultHi := by
  unfold State.deriveWrites; split_ifs <;> cases c <;> rfl
@[simp] theorem State.deriveWrites_phase (s : State) (c : ErrorCode) : (s.deriveWrites c).phase = s.phase := by
  unfold State.deriveWrites; split_ifs <;> cases c <;> rfl
@[simp] theorem State.deriveWrites_latch (s : State) (c : ErrorCode) : (s.deriveWrites c).latch = s.latch := by
  unfold State.deriveWrites; split_ifs <;> cases c <;> rfl
@[simp] theorem State.deriveWrites_acc (s : State) (c : ErrorCode) : (s.deriveWrites c).acc = s.acc := by
  unfold State.deriveWrites; split_ifs <;> cases c <;> rfl
@[simp] theorem State.deriveWrites_cs (s : State) (c : ErrorCode) : (s.deriveWrites c).cs = s.cs := by
  unfold State.deriveWrites; split_ifs <;> cases c <;> rfl
@[simp] theorem State.deriveWrites_irq (s : State) (c : ErrorCode) : (s.deriveWrites c).irq = s.irq := by
  unfold State.deriveWrites; split_ifs <;> cases c <;> rfl
@[simp] theorem State.deriveWrites_dutyBroken (s : State) (c : ErrorCode) : (s.deriveWrites c).dutyBroken = s.dutyBroken := by
  unfold State.deriveWrites; split_ifs <;> cases c <;> rfl
@[simp] theorem State.deriveWrites_draws (s : State) (c : ErrorCode) : (s.deriveWrites c).draws = s.draws := by
  unfold State.deriveWrites; split_ifs <;> cases c <;> rfl
@[simp] theorem State.deriveWrites_hosts (s : State) (c : ErrorCode) : (s.deriveWrites c).hosts = s.hosts := by
  unfold State.deriveWrites; split_ifs <;> cases c <;> rfl
@[simp] theorem State.deriveWrites_schedule (s : State) (c : ErrorCode) : (s.deriveWrites c).schedule = s.schedule := by
  unfold State.deriveWrites; split_ifs <;> cases c <;> rfl

/-! What completes and what it delivers. -/

/-- Without a broken duty a success delivers the digest. -/
theorem State.deliver_success (s : State) (lo hi : Word) (h : s.dutyBroken = false) :
    s.deliver .none lo hi = { s with resultLo := lo, resultHi := hi } := by
  simp [State.deliver, h]

/-- Without a broken duty an error delivers nothing (60_exceptions.md R297). -/
theorem State.deliver_error (s : State) (c : ErrorCode) (lo hi : Word) (h : s.dutyBroken = false) (hc : c ≠ .none) :
    s.deliver c lo hi = s := by
  simp [State.deliver, h, hc]

/-- Delivering the results a state already has changes nothing without a broken duty. -/
theorem State.deliver_same (s : State) (c : ErrorCode) (h : s.dutyBroken = false) :
    s.deliver c s.resultLo s.resultHi = s := by
  cases s
  simp_all [State.deliver]

end Sys2Proof.Machine
end

