-- ==== Sys2Proof/Laws/Exec.lean ====
section
/-! SUPPORT. What a completion can do, said once for the four commands, and what a step can do, said once for the machine. -/

namespace Sys2Proof.Machine

open Sys2Proof

/-- The memory a command leaves: only DERIVE writes. -/
def memoryAfter (i : Instr) (s : State) : Memory :=
  match i with
  | .hash64 => s.mem
  | .hash128 => s.mem
  | .hash128s => s.mem
  | .derive => (s.deriveWrites (s.errorCode .derive)).mem

/-- Delivering changes the results only. -/
theorem State.deliver_shape (s : State) (c : ErrorCode) (lo hi : Word) :
    s.deliver c lo hi =
      { s with resultLo := (s.deliver c lo hi).resultLo, resultHi := (s.deliver c lo hi).resultHi } := by
  unfold State.deliver
  split_ifs <;> rfl

/-- The shape shared by the three hash commands. -/
theorem hash_completes (i : Instr) (s : State) (a b : Word) (hi : i ≠ .derive) (hm : memoryAfter i s = s.mem)
    (he : exec i s = .next ((s.deliver (s.errorCode i) a b).complete (s.errorCode i))) :
    ∃ lo hi, exec i s =
      .next (State.complete { s with mem := memoryAfter i s, resultLo := lo, resultHi := hi } (s.errorCode i)) ∧
      (s.dutyBroken = false → (s.errorCode i ≠ .none ∨ i = .derive) → lo = s.resultLo ∧ hi = s.resultHi) := by
  refine ⟨(s.deliver (s.errorCode i) a b).resultLo, (s.deliver (s.errorCode i) a b).resultHi, ?_, fun hd hc => ?_⟩
  · rw [he, hm, ← State.deliver_shape]
  · rw [State.deliver_error s _ a b hd (hc.resolve_right hi)]
    exact ⟨rfl, rfl⟩

/-- Every command completes: with its error code, its memory, and results that are new only on success of a hash command or
after a broken duty. -/
theorem exec_completes (i : Instr) (s : State) :
    ∃ lo hi, exec i s =
      .next (State.complete { s with mem := memoryAfter i s, resultLo := lo, resultHi := hi } (s.errorCode i)) ∧
      (s.dutyBroken = false → (s.errorCode i ≠ .none ∨ i = .derive) → lo = s.resultLo ∧ hi = s.resultHi) := by
  cases i with
  | hash64 => exact hash_completes _ s _ _ (by decide) rfl rfl
  | hash128 => exact hash_completes _ s _ _ (by decide) rfl rfl
  | hash128s => exact hash_completes _ s _ _ (by decide) rfl rfl
  | derive =>
    refine ⟨((s.deriveWrites (s.errorCode .derive)).deliver (s.errorCode .derive) s.resultLo s.resultHi).resultLo,
      ((s.deriveWrites (s.errorCode .derive)).deliver (s.errorCode .derive) s.resultLo s.resultHi).resultHi, ?_,
      fun hd _ => ?_⟩
    · simp only [exec, execDerive, memoryAfter]
      congr 2
      unfold State.deliver State.deriveWrites
      split_ifs <;> cases s.errorCode .derive <;> rfl
    · unfold State.deliver
      split_ifs with h1 h2
      · simp [hd] at h1
      · exact ⟨rfl, rfl⟩
      · simp

/-- What a command that answers `t` may have done. -/
theorem exec_inversion (i : Instr) (s t : State) (h : exec i s = .next t) :
    ∃ lo hi, t = State.complete { s with mem := memoryAfter i s, resultLo := lo, resultHi := hi } (s.errorCode i) ∧
      (s.dutyBroken = false → (s.errorCode i ≠ .none ∨ i = .derive) → lo = s.resultLo ∧ hi = s.resultHi) := by
  obtain ⟨lo, hi, he, hr⟩ := exec_completes i s
  rw [he] at h
  injection h with h
  exact ⟨lo, hi, h.symm, hr⟩

/-- The memory a command leaves is in its one form. -/
theorem memoryAfter_wf (i : Instr) (s : State) (h : Memory.wf s.mem) : Memory.wf (memoryAfter i s) := by
  cases i
  · exact h
  · exact h
  · exact h
  · simp only [memoryAfter, State.deriveWrites]
    split_ifs
    · exact busWriteBytes_wf _ _ _ _ _ h
    · cases s.errorCode .derive <;> first | exact h | exact busWriteBytes_wf _ _ _ _ _ h

/-- A listed byte after a command was listed before or lies where the bus can write. -/
theorem memoryAfter_mem (i : Instr) (s : State) (c : Host.Cell) (h : c ∈ memoryAfter i s) :
    busWritable s.platform c.1 ∨ c ∈ s.mem := by
  cases i
  · exact .inr h
  · exact .inr h
  · exact .inr h
  · simp only [memoryAfter, State.deriveWrites] at h
    split_ifs at h
    · exact busWriteBytes_mem _ _ _ _ _ c h
    · revert h
      cases s.errorCode .derive <;> first | exact .inr | exact busWriteBytes_mem _ _ _ _ _ c

/-- The bytes a DERIVE leaves outside its write range are the old ones. -/
theorem memoryAfter_outside (i : Instr) (s : State) (h : Memory.wf s.mem) (a : Nat)
    (ha : i = .derive → (writeRange s.latch).contains a = false) :
    Memory.read (memoryAfter i s) a = Memory.read s.mem a := by
  cases i
  · rfl
  · rfl
  · rfl
  · have hout : ∀ f, Memory.read (s.writeWindow f).mem a = Memory.read s.mem a := fun f => by
      rw [State.writeWindow_mem, busWriteBytes_read _ _ _ _ _ _ h, if_neg]
      rintro ⟨h1, h2, -⟩
      have := ha rfl
      simp [Region.contains, writeRange, h1, h2] at this
    simp only [memoryAfter, State.deriveWrites]
    split_ifs
    · exact hout _
    · cases s.errorCode .derive <;> first | rfl | exact hout _

/-- What one step can be (R273): a host's step, a reset, a completion, or nothing. -/
theorem step_inversion (s t : State) (h : step s = .next t) :
    (∃ n, s.nextTurn = .host n ∧ t = s.popTurn.hostStep n) ∨
    (s.nextTurn = .reset ∧ t = s.popTurn.resetEngine) ∨
    (s.nextTurn = .engine ∧ s.phase = .idle ∧ t = s.popTurn) ∨
    (s.nextTurn = .engine ∧ s.phase = .busy ∧ (∃ r, s.fetch = .illegal r) ∧ t = s.popTurn.complete .illegalCmd) ∨
    (s.nextTurn = .engine ∧ s.phase = .busy ∧ ∃ i, s.fetch = .command i ∧ exec i s.popTurn = .next t) := by
  unfold step at h
  cases hn : s.nextTurn with
  | host n =>
    rw [hn] at h
    injection h with h
    exact .inl ⟨n, rfl, h.symm⟩
  | reset =>
    rw [hn] at h
    injection h with h
    exact .inr (.inl ⟨rfl, h.symm⟩)
  | engine =>
    rw [hn] at h
    simp only [takeTurn, engineTurn, State.popTurn_phase] at h
    cases hp : s.phase with
    | idle =>
      rw [hp] at h
      injection h with h
      exact .inr (.inr (.inl ⟨rfl, rfl, h.symm⟩))
    | busy =>
      rw [hp] at h
      have hf : s.popTurn.fetch = s.fetch := rfl
      simp only [hf, completeDecoded] at h
      cases hd : s.fetch with
      | command i =>
        rw [hd] at h
        exact .inr (.inr (.inr (.inr ⟨rfl, rfl, i, rfl, h⟩)))
      | illegal r =>
        rw [hd] at h
        injection h with h
        exact .inr (.inr (.inr (.inl ⟨rfl, rfl, ⟨r, rfl⟩, h.symm⟩)))

end Sys2Proof.Machine
end

