-- ==== Sys2Proof/Laws/Flags.lean ====
section
/-! SUPPORT. The bits of a register word built from fields (10_state.md R24-R26). -/

namespace Sys2Proof.Machine

open Sys2Proof

/-- A field placed at bit `k` shows its bit `i - k` at bit `i`. -/
theorem fieldAt_bit (k : Nat) {n : Nat} (x : BitVec n) (i : Nat) (hi : i < 64) :
    (fieldAt k x).getLsbD i = (decide (k ≤ i) && x.getLsbD (i - k)) := by
  simp only [fieldAt, BitVec.getLsbD_shiftLeft, BitVec.getLsbD_setWidth, BitVec.zeroExtend]
  by_cases h : i < k
  · simp [h]
  · have h1 : k ≤ i := by omega
    have h2 : i - k < 64 := by omega
    simp [hi, h, h1, h2]

/-- A flag at bit `k` shows at that bit alone. -/
theorem flagAt_bit (k : Nat) (b : Bool) (i : Nat) (hi : i < 64) : (flagAt k b).getLsbD i = (decide (i = k) && b) := by
  rw [flagAt, fieldAt_bit k _ i hi]
  cases b
  · simp
  · by_cases h : k ≤ i
    · have : i - k = 0 ↔ i = k := by omega
      simp [h, BitVec.getLsbD_one, this]
    · have : ¬ i = k := by omega
      simp [h, this]

/-- STATUS bit by bit (R26). -/
theorem statusWord_bit (busy : Bool) (s : StatusReg) (i : Nat) (hi : i < 64) :
    (statusWord busy s).getLsbD i =
      ((decide (i = 0) && busy) || (decide (i = 1) && s.done) || (decide (i = 2) && s.err) || (decide (i = 3) && s.ovr) ||
        (decide (8 ≤ i) && (errorByte s.errcode).getLsbD (i - 8)) ||
        (decide (16 ≤ i) && (backendUsedBits s.backendUsed).getLsbD (i - 16))) := by
  simp only [statusWord, BitVec.getLsbD_or, flagAt_bit _ _ i hi, fieldAt_bit _ _ i hi]

/-- CTRL keeps what its two fields hold (R25). -/
theorem selBits_selOfBits (b : BitVec 2) : selBits (selOfBits b) = b := by
  revert b
  decide

end Sys2Proof.Machine
end

