-- ==== Sys2Proof/Laws/Hosts.lean ====
section
/-! SUPPORT. What a host's step can do, and what a reset leaves in memory, each said once (46_commands.md R273,
70_reset_and_hazards.md R332). -/

namespace Sys2Proof.Machine

open Sys2Proof

/-- A register write reaches no agent and no parameter. -/
theorem writeReg_agents (s : State) (r : Reg) (w : Word) :
    (s.writeReg r w).hosts = s.hosts ∧ (s.writeReg r w).schedule = s.schedule ∧
    (s.writeReg r w).platform = s.platform ∧ (s.writeReg r w).mem = s.mem := by
  cases r <;> first | exact ⟨rfl, rfl, rfl, rfl⟩ | (simp only [State.writeReg, State.writeCmd]; cases s.phase <;> exact ⟨rfl, rfl, rfl, rfl⟩)

/-- Only 64-bit accesses reach a register (10_state.md R22). -/
theorem accessTarget_register (p : Platform) (addr : Word) (n : Nat) (r : Reg) (h : accessTarget p addr n = .register r) :
    n = 8 := by
  simp only [accessTarget] at h
  split_ifs at h with h1 h2
  exact h2.1

/-- A host's step changes the host's record and a draw only, or it writes one register, or it stores to memory. -/
theorem hostStep_cases (s : State) (n : Nat) :
    (∃ hs d, s.hostStep n = { s with hosts := hs, draws := d }) ∨
    (∃ h addr bytes rest r hs, s.hosts[n]? = some h ∧ h.ops = .write addr bytes :: rest ∧
      accessTarget s.platform addr bytes.length = .register r ∧
      s.hostStep n = { s.writeReg r (busWord bytes) with hosts := hs }) ∨
    (∃ h addr bytes rest hs, s.hosts[n]? = some h ∧ h.ops = .write addr bytes :: rest ∧
      accessTarget s.platform addr bytes.length = .memory ∧
      memoryAnswers s.platform s.platform.writeFaults (accessRegion addr bytes.length) = true ∧
      s.hostStep n = { s.hostStore addr bytes with hosts := hs }) := by
  have idle : ∃ hs d, s = { s with hosts := hs, draws := d } := ⟨s.hosts, s.draws, rfl⟩
  unfold State.hostStep
  cases hh : s.hosts[n]? with
  | none => exact .inl idle
  | some h =>
    simp only []
    cases ho : h.ops with
    | nil => exact .inl idle
    | cons o rest =>
      cases o with
      | read addr width =>
        left
        simp only [State.hostRead]
        split
        · exact ⟨_, s.draws, rfl⟩
        · exact ⟨_, s.draws, rfl⟩
        · split_ifs
          · exact ⟨_, _, rfl⟩
          · exact ⟨_, s.draws, rfl⟩
      | write addr bytes =>
        simp only [State.hostWrite]
        split
        · rename_i r hr
          refine .inr (.inl ⟨h, addr, bytes, rest, r, s.hosts.set n h.advance, rfl, ho, hr, ?_⟩)
          simp only [State.putHost, (writeReg_agents s r (busWord bytes)).1]
        · exact .inl ⟨_, s.draws, rfl⟩
        · rename_i hr
          split_ifs with hm
          · exact .inr (.inr ⟨h, addr, bytes, rest, _, rfl, ho, hr, hm, rfl⟩)
          · exact .inl ⟨_, s.draws, rfl⟩
      | waitIdle =>
        left
        simp only [State.hostPoll]
        split <;> exact ⟨_, s.draws, rfl⟩
      | waitIrq =>
        left
        simp only [State.hostAwaitIrq]
        split_ifs
        · exact ⟨_, s.draws, rfl⟩
        · exact idle

/-- The step of a host that writes a register is that write. -/
theorem hostStep_register (s : State) (n : Nat) (h : HostAgent) (addr : Word) (bytes : List Byte) (rest : List HostOp)
    (r : Reg) (hh : s.hosts[n]? = some h) (ho : h.ops = .write addr bytes :: rest)
    (ht : accessTarget s.platform addr bytes.length = .register r) :
    s.hostStep n = (s.writeReg r (busWord bytes)).putHost n { h with ops := rest } := by
  simp only [State.hostStep, hh, ho, State.hostWrite, ht, HostAgent.advance, List.drop_succ_cons, List.drop_zero]

/-- A byte after a reset is the old one, or one of the WR of an aborted DERIVE. -/
theorem abortedMemory_read (s : State) (a : Nat) (h : Memory.wf s.mem) :
    Memory.read s.abortedMemory a = Memory.read s.mem a ∨
    (s.deriveInFlight = true ∧ (writeRange s.latch).contains a = true ∧
      Memory.read s.abortedMemory a = s.inFlightByte (a - s.latch.dst.toNat)) := by
  unfold State.abortedMemory
  split_ifs with hf
  · rw [State.writeWindow_mem, busWriteBytes_read _ _ _ _ _ _ h]
    split_ifs with hw
    · exact .inr ⟨hf, by simp [Region.contains, writeRange, hw.1, hw.2.1], rfl⟩
    · exact .inl rfl
  · exact .inl rfl

end Sys2Proof.Machine
end

