-- ==== Sys2Proof/Laws/PerInstr.lean ====
section
/-! SUPPORT. Statements about every instruction as the encoding has it, one lemma per constructor. -/

namespace Sys2Proof.Laws.Fields

open Sys2Proof

/-- The instruction's fields are legal (30_encoding.md R100, R101), and its word holds them. -/
def Statement (i : Instr) : Prop := i.wellFormed = true ∧ fieldsOf (encode i) = i.fields

theorem hash64 : Statement .hash64 := by unfold Statement; decide

theorem hash128 : Statement .hash128 := by unfold Statement; decide

theorem hash128s : Statement .hash128s := by unfold Statement; decide

theorem derive : Statement .derive := by unfold Statement; decide

end Sys2Proof.Laws.Fields
end

