-- ==== Sys2Proof/Laws/Primitives.lean ====
section
/-! SUPPORT. A decoder reads only the bytes it decodes (40_primitives.md R120, R121). -/

namespace Sys2Proof.Machine

open Sys2Proof

theorem valueLE_congr (b c : Nat → Byte) (n i : Nat) (h : ∀ k, i ≤ k → k < i + n → b k = c k) :
    valueLE b i n = valueLE c i n := by
  induction n generalizing i with
  | zero => rfl
  | succ n ih =>
    simp only [valueLE]
    rw [h i (by omega) (by omega), ih (i + 1) fun k h1 h2 => h k (by omega) (by omega)]

/-- Two buffers that agree below a length decode alike inside it. -/
theorem le64_congr (b c : Nat → Byte) (i len : Nat) (h : ∀ k, k < len → b k = c k) (hl : i + 8 ≤ len) :
    le64 b i = le64 c i := by
  unfold le64
  rw [valueLE_congr b c 8 i fun k _ h2 => h k (by omega)]

theorem le32_congr (b c : Nat → Byte) (i len : Nat) (h : ∀ k, k < len → b k = c k) (hl : i + 4 ≤ len) :
    le32 b i = le32 c i := by
  unfold le32
  rw [valueLE_congr b c 4 i fun k _ h2 => h k (by omega)]

end Sys2Proof.Machine
end

