-- ==== Sys2Proof/Laws/Ranges.lean ====
section
/-! SUPPORT. The range checks say what the spec says byte by byte (20_memory.md R83-R85), and the error code is the first
check that fails (60_exceptions.md R291). -/

namespace Sys2Proof.Machine

open Sys2Proof

theorem Region.contains_iff (r : Region) (a : Nat) : r.contains a = true ↔ r.start ≤ a ∧ a < r.start + r.size := by
  simp [Region.contains]

/-- Two regions meet exactly when an address lies in both. -/
theorem Region.meets_iff (r q : Region) : r.meets q = true ↔ ∃ a, r.contains a = true ∧ q.contains a = true := by
  simp only [Region.meets, Bool.and_eq_true, decide_eq_true_eq, Region.contains_iff]
  constructor
  · rintro ⟨⟨⟨h1, h2⟩, h3⟩, h4⟩
    exact ⟨max r.start q.start, by omega, by omega⟩
  · rintro ⟨a, h1, h2⟩
    omega

theorem inRegions_iff (rs : List Region) (a : Nat) : inRegions rs a = true ↔ ∃ q ∈ rs, q.contains a = true := by
  simp [inRegions]

/-- A range is clear of the regions exactly when none of its addresses is in one. -/
theorem clearOf_iff (rs : List Region) (r : Region) :
    clearOf rs r = true ↔ ∀ a, r.contains a = true → inRegions rs a = false := by
  simp only [clearOf, List.all_eq_true, Bool.not_eq_true']
  constructor
  · intro h a ha
    rw [← Bool.not_eq_true, inRegions_iff]
    rintro ⟨q, hq, hqa⟩
    have := (Region.meets_iff r q).2 ⟨a, ha, hqa⟩
    simp [h q hq] at this
  · intro h q hq
    rw [← Bool.not_eq_true, Region.meets_iff]
    rintro ⟨a, ha, hqa⟩
    have := (inRegions_iff rs a).2 ⟨q, hq, hqa⟩
    simp [h a ha] at this

theorem rangeReadOK_iff (p : Platform) (r : Region) : rangeReadOK p r = true ↔ allReadOK p r := by
  simp [rangeReadOK, clearOf_iff, allReadOK, Platform.readOK]

theorem rangeWriteOK_iff (p : Platform) (r : Region) : rangeWriteOK p r = true ↔ allWriteOK p r := by
  simp [rangeWriteOK, clearOf_iff, allWriteOK, Platform.writeOK]

theorem inRange_iff (p : Platform) (r : Region) : inRange p r = true ↔ rangeFits p r := by
  simp [inRange, rangeFits]

/-- A range clear of the register block and of the regions with read side effects is plain memory. -/
theorem clearOf_plain (p : Platform) (r : Region) : clearOf (p.block :: p.sideEffects) r = true ↔ allPlain p r := by
  simp only [clearOf_iff, allPlain, Platform.volatile, Bool.or_eq_false_iff, inRegions, List.any_cons]
  exact forall_congr' fun a => imp_congr Iff.rfl and_comm

/-- The engine sees the bytes stored in a range of plain memory (20_memory.md R74, R75). -/
theorem rangeByte_plain (s : State) (r : Region) (free : Nat → Byte) (h : allPlain s.platform r) :
    s.rangeByte r free = fun k => Memory.read s.mem (r.start + k) := by
  funext k
  unfold State.rangeByte
  split_ifs with hk
  · simp only [Bool.and_eq_true, decide_eq_true_eq] at hk
    have := h (r.start + k) ((Region.contains_iff _ _).2 ⟨by omega, by omega⟩)
    simp [this] at hk
  · rfl

theorem input_plain (s : State) (h : s.InputReady) :
    s.input = fun k => Memory.read s.mem (s.latch.src.toNat + k) := rangeByte_plain s _ _ h.plain

theorem callerSecret_plain (s : State) (h : s.SecretReady) :
    s.callerSecret = fun k => Memory.read s.mem (s.latch.secaddr.toNat + k) := rangeByte_plain s _ _ h.plain

/-- An empty range passes every check. -/
theorem empty_range (p : Platform) (r : Region) (h : r.size = 0) :
    rangeFits p r ∧ allReadOK p r ∧ allWriteOK p r ∧ allPlain p r := by
  have none : ∀ a, ¬ r.contains a = true := fun a => by rw [Region.contains_iff]; omega
  exact ⟨.inl h, fun a ha => absurd ha (none a), fun a ha => absurd ha (none a), fun a ha => absurd ha (none a)⟩

/-! The error code. -/

/-- A hash command whose input passes every check has no error. -/
theorem errorCode_hash64 (s : State) (h : s.InputReady) : s.errorCode .hash64 = .none := by
  simp [State.errorCode, commandCode, secretTooShort, declaredRanges, readRanges, writeRanges, (inRange_iff _ _).2 h.fits,
    (rangeReadOK_iff _ _).2 h.readable]

theorem errorCode_hash128 (s : State) (h : s.InputReady) : s.errorCode .hash128 = .none := by
  simp [State.errorCode, commandCode, secretTooShort, declaredRanges, readRanges, writeRanges, (inRange_iff _ _).2 h.fits,
    (rangeReadOK_iff _ _).2 h.readable]

theorem errorCode_hash128s (s : State) (h : s.InputReady) (k : s.SecretReady) : s.errorCode .hash128s = .none := by
  have hl : ¬ s.latch.seclen.toNat < secretSizeMin := by have := k.long; simp [secretSizeMin]; omega
  simp [State.errorCode, commandCode, secretTooShort, declaredRanges, readRanges, writeRanges, (inRange_iff _ _).2 h.fits,
    (rangeReadOK_iff _ _).2 h.readable, (inRange_iff _ _).2 k.fits, (rangeReadOK_iff _ _).2 k.readable, hl]

theorem errorCode_derive (s : State) (h : s.WindowReady) : s.errorCode .derive = .none := by
  simp [State.errorCode, commandCode, secretTooShort, declaredRanges, readRanges, writeRanges, (inRange_iff _ _).2 h.fits,
    (rangeWriteOK_iff _ _).2 h.writable]

end Sys2Proof.Machine
end

