-- ==== Sys2Proof/Machine/Script.lean ====
section
/-! DEFINITION. Host scripts (30_encoding.md R106-R108): the statements, their expansion to the accesses of a host agent, and
the placing of a script in the machine. -/

namespace Sys2Proof.Machine

open Sys2Proof

/-- The statements of R106 and the pseudo-instructions of R108. -/
inductive Stmt where
  | write (r : Reg) (imm : Word)
  | read (r : Reg)
  | cmd (i : Instr)
  | mem (addr : Word) (bytes : List Byte)
  | wait
  | ack
  | hash64 (src len seed : Word)
  | hash128 (src len seed : Word)
  | hash128s (src len seed secaddr seclen : Word)
  | derive (seed dst : Word)
  deriving DecidableEq, Repr

/-- `BASE + off(REG)`. DESIGN CHOICE: the sum wraps at `2^64`, where the block itself does not (log 21). -/
def regAddress (p : Platform) (r : Reg) : Word := p.base + BitVec.ofNat 64 (regOffset r)

/-- `(W, BASE + off(REG), imm64)`. -/
def busWrite (p : Platform) (r : Reg) (v : Word) : HostOp := .write (regAddress p r) (busBytes v)

/-- `(R, BASE + off(REG))`. -/
def busRead (p : Platform) (r : Reg) : HostOp := .read (regAddress p r) 8

/-- The accesses of a statement; `mem` is no bus transaction (R106). -/
def stmtOps (p : Platform) : Stmt → List HostOp
  | .write r imm => [busWrite p r imm]
  | .read r => [busRead p r]
  | .cmd i => [busWrite p .cmd (encode i)]
  | .mem _ _ => []
  | .wait => [.waitIdle]
  | .ack => [busWrite p .status 0x6#64]
  | .hash64 src len seed =>
    [busWrite p .srcAddr src, busWrite p .len len, busWrite p .seed seed, busWrite p .cmd (encode .hash64), .waitIdle]
  | .hash128 src len seed =>
    [busWrite p .srcAddr src, busWrite p .len len, busWrite p .seed seed, busWrite p .cmd (encode .hash128), .waitIdle]
  | .hash128s src len seed secaddr seclen =>
    [busWrite p .srcAddr src, busWrite p .len len, busWrite p .seed seed, busWrite p .secretAddr secaddr,
     busWrite p .secretLen seclen, busWrite p .cmd (encode .hash128s), .waitIdle]
  | .derive seed dst =>
    [busWrite p .seed seed, busWrite p .dstAddr dst, busWrite p .cmd (encode .derive), .waitIdle]

/-- The launch memory set-up of a statement (R106). DESIGN CHOICE: a byte of it that falls in the register block goes nowhere
(log 23). -/
def stmtSetup (p : Platform) (m : Memory) : Stmt → Memory
  | .mem addr bytes => busWriteList p addr.toNat bytes m
  | .write _ _ => m
  | .read _ => m
  | .cmd _ => m
  | .wait => m
  | .ack => m
  | .hash64 _ _ _ => m
  | .hash128 _ _ _ => m
  | .hash128s _ _ _ _ _ => m
  | .derive _ _ => m

/-- A script's accesses. -/
def scriptOps (p : Platform) (script : List Stmt) : List HostOp := script.flatMap (stmtOps p)

/-- A script's launch memory set-up. -/
def scriptSetup (p : Platform) (script : List Stmt) (m : Memory) : Memory := script.foldl (stmtSetup p) m

/-- The machine with a script placed as one more host (log 7). DESIGN CHOICE: its memory set-up is at once, in either phase,
and is no store of an agent: while BUSY it may change a declared range and breaks no duty (log 26). -/
def State.launch (s : State) (script : List Stmt) : State :=
  { s with
    mem := scriptSetup s.platform script s.mem
    hosts := s.hosts ++ [⟨scriptOps s.platform script, [], []⟩] }

/-- The mnemonics of R101 and R107. -/
def mnemonic : Instr → String
  | .hash64 => "HASH64"
  | .hash128 => "HASH128"
  | .hash128s => "HASH128.S"
  | .derive => "DERIVE"

/-- The assembler's `cmd MNEMONIC`: any other name is rejected (R106). -/
def assembleCmd (name : String) : Option Instr :=
  if name = "HASH64" then some .hash64
  else if name = "HASH128" then some .hash128
  else if name = "HASH128.S" then some .hash128s
  else if name = "DERIVE" then some .derive
  else none

/-- The disassembly of a command word (R107). DESIGN CHOICE: the digits after `.word 0x` are lower-case hexadecimal without
leading zeros (log 22). -/
def disassemble (w : Word) : String :=
  match decode w with
  | .command i => mnemonic i
  | .illegal _ => ".word 0x" ++ String.ofList (Nat.toDigits 16 w.toNat)

end Sys2Proof.Machine
end

