-- ==== Sys2Proof/Tests/Slice0.lean ====
section
/-! SUPPORT. Tests of this session: expected values are those of spec/95_test_vectors.md or of the rule named; and for every
statement of Obligations with hypotheses a witness that meets them. -/

namespace Sys2Proof.Tests

open Sys2Proof Sys2Proof.Machine

/-! ## Well-formedness: an ill-formed term for each check (30_encoding.md R100) -/

theorem test_wellFormed_rejects_reserved_bit : CmdFields.problem ⟨1#4, 0#1, 1#59⟩ = some .reservedBits := by decide
theorem test_wellFormed_rejects_opcode_zero : CmdFields.problem ⟨0#4, 0#1, 0#59⟩ = some .opcode := by decide
theorem test_wellFormed_rejects_opcode_four : CmdFields.problem ⟨4#4, 0#1, 0#59⟩ = some .opcode := by decide
theorem test_wellFormed_rejects_secret_on_hash64 : CmdFields.problem ⟨1#4, 1#1, 0#59⟩ = some .secretSelect := by decide
theorem test_wellFormed_accepts_hash128s : CmdFields.wellFormed ⟨2#4, 1#1, 0#59⟩ = true := by decide

/-! ## Decoding: words of 95_test_vectors.md 2.9, and the four of R101 bit by bit -/

theorem test_decode_words :
    decode 0b0000000000000000000000000000000000000000000000000000000000000001#64 = .command .hash64 ∧
    decode 0b0000000000000000000000000000000000000000000000000000000000000010#64 = .command .hash128 ∧
    decode 0b0000000000000000000000000000000000000000000000000000000000010010#64 = .command .hash128s ∧
    decode 0b0000000000000000000000000000000000000000000000000000000000000011#64 = .command .derive := by decide

theorem test_decode_illegal_words :
    decode 0x0#64 = .illegal .opcode ∧ decode 0x4#64 = .illegal .opcode ∧ decode 0xF#64 = .illegal .opcode ∧
    decode 0x11#64 = .illegal .secretSelect ∧ decode 0x13#64 = .illegal .secretSelect ∧
    decode 0x22#64 = .illegal .reservedBits ∧ decode 0x8000000000000001#64 = .illegal .reservedBits := by decide

theorem test_decode_bytes :
    decodeBytes [0x12#8, 0#8, 0#8, 0#8, 0#8, 0#8, 0#8, 0#8] = .command .hash128s ∧
    decodeBytes [0#8, 0#8, 0#8, 0#8, 0#8, 0#8, 0#8, 0x12#8] = .illegal .reservedBits ∧
    decodeBytes [0x12#8] = .illegal .notOneWord ∧ decodeBytes [] = .illegal .notOneWord := by decide

theorem test_table_word : decodeTableWord 64 0x12 = some .hash128s ∧ decodeTableWord 64 0x13 = none := by decide

/-! ## Primitives and backends: 95_test_vectors.md 2.1, 2.6, 2.7 -/

def ramp (k : Nat) : Byte := BitVec.ofNat 8 k

theorem test_primitives :
    le32 ramp 0 = 0x03020100#32 ∧ le64 ramp 1 = 0x0807060504030201#64 ∧ swap32 0x12345678#32 = 0x78563412#32 ∧
    swap64 0x0123456789ABCDEF#64 = 0xEFCDAB8967452301#64 ∧ rotl32 0x80000001#32 13 = 0x00003000#32 ∧
    rotl64 0x8000000000000001#64 31 = 0xC0000000#64 ∧ xorshift64 0xFFFFFFFFFFFFFFFF#64 47 = 0xFFFFFFFFFFFE0000#64 ∧
    fold64 prime64_1 prime64_2 = 0xA6A7237BAA01EC01#64 ∧ avalanche64 prime64_1 = 0xB8CB396DE59EAB6A#64 ∧
    avalanche3 prime64_1 = 0xFDB64330E89C69CA#64 := by decide +kernel

theorem test_effective_backend :
    effectiveBackend ⟨false, true, 0, 0#64, [], [], []⟩ .auto = .wide ∧
    effectiveBackend ⟨false, true, 0, 0#64, [], [], []⟩ .narrow = .wide ∧
    effectiveBackend ⟨false, false, 0, 0#64, [], [], []⟩ .wide = .scalar ∧
    effectiveBackend ⟨true, true, 0, 0#64, [], [], []⟩ .narrow = .narrow := by decide

/-- Seed 1 adds 1 to the even lanes of the ROM and subtracts 1 from the odd ones: lanes 0, 1 and 23. -/
theorem test_derived_lanes :
    derivedLane 1#64 0 = 0xBE4BA423396CFEB9#64 ∧ derivedLane 1#64 1 = 0x1CAD21F72C81017B#64 ∧
    (derivedWideGroup 1#64 5)[3] = 0x7E404BBBCAFBD7AE#64 ∧ (derivedNarrowGroup 1#64 11)[1] = 0x7E404BBBCAFBD7AE#64 := by
  decide +kernel

/-! ## The machine of the tests: the platform of 95_test_vectors.md section 3, with both vector backends -/

def plat : Platform := ⟨true, true, 0, 0xF0000000#64, [⟨0x10000, 2 ^ 64⟩], [⟨0x10000, 2 ^ 64⟩], []⟩

/-- The whole address space is readable and writable. -/
def openPlat : Platform := ⟨false, false, 0, 0xF0000000#64, [], [], []⟩

def quiet : State := { State.reset with platform := plat }

/-- A command running on given operands. -/
def running (i : Instr) (src len seed secaddr seclen dst : Word) : State :=
  { quiet with phase := .busy, latch := ⟨encode i, src, len, seed, secaddr, seclen, dst, .wide⟩ }

def withOps (s : State) (ops : List HostOp) : State := { s with hosts := [⟨ops, [], []⟩] }

def withTurn (s : State) (t : Turn) : State := { s with schedule := [t] }

/-- `n` bytes of `f` stored from an address on. -/
def storing (s : State) (a : Nat) (f : Nat → Byte) (n : Nat) : State :=
  { s with mem := busWriteBytes s.platform a f n s.mem }

/-- What a test looks at after one step. -/
def after (s : State) (look : State → Word × Word × Word) : Option (Word × Word × Word) :=
  match step s with
  | .next t => some (look t)
  | .fault _ => none
  | .refused _ => none

/-- STATUS, RESULT_LO, RESULT_HI. -/
def outcome (t : State) : Word × Word × Word := (t.statusValue, t.resultLo, t.resultHi)

/-! ## One step of each command: 95_test_vectors.md 2.2-2.9 -/

theorem test_hash64_ramp13 :
    after (storing (running .hash64 0x1000#64 13#64 0#64 0#64 0#64 0#64) 0x1000 ramp 13) outcome =
      some (0x30002#64, 0x13D17C4C779723A8#64, 0#64) := by decide +kernel

theorem test_hash64_range :
    after (running .hash64 0xFFFFFFFFFFFFFFF0#64 17#64 0#64 0#64 0#64 0#64) outcome =
      some (0x30206#64, 0#64, 0#64) := by decide +kernel

theorem test_hash128_ramp17 :
    after (storing (running .hash128 0x1000#64 17#64 0#64 0#64 0#64 0#64) 0x1000 ramp 17) outcome =
      some (0x30002#64, 0xC06E233DF7729217#64, 0x685BC458B37D057F#64) := by decide +kernel

theorem test_hash128_read_fault :
    after (running .hash128 0x1000#64 0xF001#64 0#64 0#64 0#64 0#64) outcome =
      some (0x30406#64, 0#64, 0#64) := by decide +kernel

/-- CSEC(136), of which 3 bytes of input use the first 16. -/
theorem test_hash128s_caller_secret :
    after (storing (storing (running .hash128s 0x1000#64 3#64 0#64 0x2000#64 136#64 0#64) 0x1000 ramp 3) 0x2000
      (fun i => BitVec.ofNat 8 (7 * i + 1)) 16) outcome =
      some (0x30002#64, 0x9E8726F54B990345#64, 0x39E53926119B1494#64) := by decide +kernel

theorem test_hash128s_short_outranks_range :
    after (running .hash128s 0xFFFFFFFFFFFFFFF0#64 17#64 0#64 0#64 100#64 0#64) outcome =
      some (0x30306#64, 0#64, 0#64) := by decide +kernel

/-- The window from 0x2000, of which the register block placed at 0x2010 leaves 16 bytes of memory (20_memory.md R71). -/
theorem test_derive_seed1 :
    after { running .derive 0#64 0#64 1#64 0#64 0#64 0x2000#64 with platform := { plat with base := 0x2010#64 } } (fun t =>
      (t.statusValue, le64 (Memory.read t.mem) 0x2000, le64 (Memory.read t.mem) 0x2008)) =
      some (0x30002#64, 0xBE4BA423396CFEB9#64, 0x1CAD21F72C81017B#64) := by decide +kernel

theorem test_derive_range_and_write_fault :
    after (running .derive 0#64 0#64 1#64 0#64 0#64 0xFFFFFFFFFFFFFF41#64) outcome = some (0x30206#64, 0#64, 0#64) ∧
    after (running .derive 0#64 0#64 1#64 0#64 0#64 0xFF80#64) outcome = some (0x30506#64, 0#64, 0#64) := by
  decide +kernel

/-! ## The host's side -/

theorem test_illegal_word_completes :
    after (quiet.withFetchWord 64 0x11) outcome = some (0x30106#64, 0#64, 0#64) := by decide +kernel

theorem test_fetch_word_runs_it :
    (match step (State.reset.withFetchWord 64 0x1) with
      | .next t => t.status.done
      | .fault _ => false
      | .refused _ => false) = true := by decide +kernel

theorem test_dropped_command_sets_overrun :
    after (withTurn (withOps (running .derive 0#64 0#64 0#64 0#64 0#64 0#64) [.write 0xF0000020#64 (busBytes 0x1#64)]) (.host 0))
      outcome = some (0x9#64, 0#64, 0#64) := by decide +kernel

theorem test_misaligned_access_is_the_hosts :
    ((withOps quiet [.write 0xF0000024#64 (busBytes 0x1#64)]).hostStep 0).hosts =
      [⟨[], [], [.registerAccess 0xF0000024#64 8]⟩] := by decide

/-! ## Witnesses: the hypotheses of each statement, met -/

def busy64 : State := running .hash64 0x1000#64 3#64 0#64 0#64 0#64 0#64
def busy128 : State := running .hash128 0x1000#64 3#64 0#64 0#64 0#64 0#64
def busy128s : State := running .hash128s 0x1000#64 3#64 0#64 0x2000#64 136#64 0#64
def busyDerive : State := running .derive 0#64 0#64 1#64 0#64 0#64 0x3000#64
def busyIllegal : State := { quiet with phase := .busy, latch := ⟨0x11#64, 0#64, 0#64, 0#64, 0#64, 0#64, 0#64, .wide⟩ }

theorem witness_IllegalWords :
    quiet.phase = .idle ∧ (∃ r, decode 0x0#64 = .illegal r) ∧ (∃ r, decode 0x4#64 = .illegal r) ∧
    (∃ r, decode 0xF#64 = .illegal r) ∧ (∃ r, decode 0x11#64 = .illegal r) ∧ (∃ r, decode 0x20#64 = .illegal r) ∧
    ¬ (∃ r, decode 0x3#64 = .illegal r) ∧ ¬ ∃ r, decode 0x12#64 = .illegal r :=
  ⟨rfl, ⟨_, rfl⟩, ⟨_, rfl⟩, ⟨_, rfl⟩, ⟨_, rfl⟩, ⟨_, rfl⟩, (by rintro ⟨r, h⟩; cases h), (by rintro ⟨r, h⟩; cases h)⟩

theorem witness_StepRuns :
    ∀ i : Instr, ∃ s : State, s.nextTurn = .engine ∧ s.phase = .busy ∧ decode s.latch.word = .command i := by
  intro i
  cases i
  · exact ⟨busy64, rfl, rfl, by decide⟩
  · exact ⟨busy128, rfl, rfl, by decide⟩
  · exact ⟨busy128s, rfl, rfl, by decide⟩
  · exact ⟨busyDerive, rfl, rfl, by decide⟩

theorem witness_StepTakes :
    (withTurn busy64 (.host 0)).nextTurn = .host 0 ∧ (withTurn busy64 .reset).nextTurn = .reset ∧
    (quiet.nextTurn = .engine ∧ quiet.phase = .idle) ∧
    (busyIllegal.nextTurn = .engine ∧ busyIllegal.phase = .busy ∧
      decode busyIllegal.latch.word = .illegal .secretSelect) := by
  exact ⟨rfl, rfl, ⟨rfl, rfl⟩, rfl, rfl, by decide⟩

theorem witness_Issue : quiet.phase = .idle := rfl

theorem witness_Dropped : busyDerive.phase = .busy := rfl

theorem witness_OperandRegisters :
    Reg.srcAddr ∈ [Reg.srcAddr, .len, .seed, .secretAddr, .secretLen, .dstAddr] ∧
    Reg.dstAddr ∈ [Reg.srcAddr, .len, .seed, .secretAddr, .secretLen, .dstAddr] := by decide

/-- The first, the last named and the last reserved offset, written and read. -/
theorem witness_AlignedAccess :
    ∀ off ∈ [0x00, 0x60, 0xF8], quiet.platform.base.toNat + 256 ≤ 2 ^ 64 ∧ off < 256 ∧ off % 8 = 0 ∧
      (∃ h, (withOps quiet [.write (plat.base + BitVec.ofNat 64 off) (busBytes 5#64)]).hosts[0]? = some h ∧
        h.ops = .write (plat.base + BitVec.ofNat 64 off) (busBytes 5#64) :: []) ∧
      ∃ h, (withOps quiet [.read (plat.base + BitVec.ofNat 64 off) 8]).hosts[0]? = some h ∧
        h.ops = .read (plat.base + BitVec.ofNat 64 off) 8 :: [] := by
  intro off ho
  refine ⟨by decide, ?_, ?_, ⟨_, rfl, rfl⟩, ⟨_, rfl, rfl⟩⟩ <;> revert off <;> decide

/-- A 4-byte access at a register, one across each end of the block, a misaligned one, a byte at its last address, accesses of
3, 16 and 512 bytes. -/
theorem witness_RefusedAccess :
    ∀ c ∈ [((0xF0000018#64 : Word), 4), (0xEFFFFFFF#64, 2), (0xF00000FC#64, 8), (0xF0000024#64, 8), (0xF00000FF#64, 1),
      (0xF0000018#64, 3), (0xF0000020#64, 16), (0xEFFFFFF0#64, 512)],
    0 < c.2 ∧ plat.base.toNat < c.1.toNat + c.2 ∧ c.1.toNat < plat.base.toNat + 256 ∧
    ¬ (c.2 = 8 ∧ plat.base.toNat ≤ c.1.toNat ∧ 8 ∣ c.1.toNat - plat.base.toNat) := by decide

theorem witness_RefusedAccess_host (addr : Word) (width : Nat) (bytes : List Byte) :
    (∃ h, (withOps quiet [.read addr width]).hosts[0]? = some h ∧ h.ops = .read addr width :: []) ∧
    ∃ h, (withOps quiet [.write addr bytes]).hosts[0]? = some h ∧ h.ops = .write addr bytes :: [] :=
  ⟨⟨_, rfl, rfl⟩, ⟨_, rfl, rfl⟩⟩

/-- A CMD write of 16 bytes is refused: no command is issued. -/
theorem test_wide_access_is_the_hosts :
    ((withOps quiet [.write 0xF0000020#64 (List.replicate 16 0x1#8)]).hostStep 0).hosts =
      [⟨[], [], [.registerAccess 0xF0000020#64 16]⟩] ∧
    ((withOps quiet [.write 0xF0000020#64 (List.replicate 16 0x1#8)]).hostStep 0).phase = .idle := by decide

theorem witness_EnableBit :
    (0x0#64 : Word).getLsbD 8 = false ∧ (0x100#64 : Word).getLsbD 8 = true ∧
    { quiet with status := ⟨true, false, false, .none, some .wide⟩ }.status.done = true := by decide

/-- A state whose input passes every check. -/
theorem inputReady (s : State) (h1 : s.dutyBroken = false) (h2 : inRange s.platform (inputRange s.latch) = true)
    (h3 : rangeReadOK s.platform (inputRange s.latch) = true)
    (h4 : clearOf (s.platform.block :: s.platform.sideEffects) (inputRange s.latch) = true) : s.InputReady :=
  ⟨h1, (inRange_iff _ _).1 h2, (rangeReadOK_iff _ _).1 h3, (clearOf_plain _ _).1 h4⟩

theorem secretReady (s : State) (h1 : 136 ≤ s.latch.seclen.toNat) (h2 : inRange s.platform (secretRange s.latch) = true)
    (h3 : rangeReadOK s.platform (secretRange s.latch) = true)
    (h4 : clearOf (s.platform.block :: s.platform.sideEffects) (secretRange s.latch) = true) : s.SecretReady :=
  ⟨h1, (inRange_iff _ _).1 h2, (rangeReadOK_iff _ _).1 h3, (clearOf_plain _ _).1 h4⟩

theorem windowReady (s : State) (h1 : s.dutyBroken = false) (h2 : inRange s.platform (writeRange s.latch) = true)
    (h3 : rangeWriteOK s.platform (writeRange s.latch) = true) : s.WindowReady :=
  ⟨h1, (inRange_iff _ _).1 h2, (rangeWriteOK_iff _ _).1 h3⟩

/-- A 3-byte input, the input that ends at the last byte of the address space, and the empty input anywhere. -/
theorem witness_InputReady :
    busy64.InputReady ∧ busy128.InputReady ∧ busy128s.InputReady ∧
    { running .hash64 0xFFFFFFFFFFFFFFF0#64 16#64 0#64 0#64 0#64 0#64 with platform := openPlat }.InputReady ∧
    (running .hash128 0xFFFFFFFFFFFFFFFF#64 0#64 0#64 0#64 0#64 0#64).InputReady := by
  refine ⟨?_, ?_, ?_, ?_, ?_⟩ <;> exact inputReady _ rfl (by decide) (by decide) (by decide)

/-- A secret of the least length, and one of 192 bytes that ends at the last readable byte. -/
theorem witness_SecretReady :
    busy128s.SecretReady ∧ (running .hash128s 0#64 0#64 0#64 0xFF40#64 192#64 0#64).SecretReady := by
  constructor <;> exact secretReady _ (by decide) (by decide) (by decide) (by decide)

/-- A window in low memory and the last one the address space holds. -/
theorem witness_WindowReady :
    (Memory.wf busyDerive.mem ∧ busyDerive.WindowReady ∧ busyDerive.latch.seed = 1#64) ∧
    { running .derive 0#64 0#64 0#64 0#64 0#64 0xFFFFFFFFFFFFFF40#64 with platform := openPlat }.WindowReady ∧
    (running .derive 0#64 0#64 0#64 0#64 0#64 0#64).WindowReady := by
  refine ⟨⟨by decide, ?_, rfl⟩, ?_, ?_⟩ <;> exact windowReady _ rfl (by decide) (by decide)

/-- The first and the last byte of a window outside the register block. -/
theorem witness_WindowBytes :
    plat.block.contains (0x3000 + 0) = false ∧ plat.block.contains (0x3000 + 191) = false ∧ 0x3000 + 191 < plat.addrLimit := by
  decide

theorem witness_IllegalCommand : busyIllegal.phase = .busy ∧ busyIllegal.fetch = .illegal .secretSelect := by decide

theorem witness_EmptyInput :
    (running .hash64 0xFFFFFFFFFFFFFFFF#64 0#64 0#64 0#64 0#64 0#64).dutyBroken = false ∧
    (running .hash64 0xFFFFFFFFFFFFFFFF#64 0#64 0#64 0#64 0#64 0#64).latch.len = 0#64 := ⟨rfl, rfl⟩

/-- Each outcome of the checks is reached. -/
theorem witness_EveryCode :
    (running .hash128s 0#64 0#64 0#64 0#64 135#64 0#64).errorCode .hash128s = .secretTooShort ∧
    (running .hash64 0xFFFFFFFFFFFFFFF0#64 17#64 0#64 0#64 0#64 0#64).errorCode .hash64 = .range ∧
    (running .hash64 0xFFFFFFFFFFFFFFF0#64 16#64 0#64 0#64 0#64 0#64).errorCode .hash64 = .readFault ∧
    (running .hash128s 0#64 0#64 0#64 0xFFC0#64 192#64 0#64).errorCode .hash128s = .readFault ∧
    (running .derive 0#64 0#64 0#64 0#64 0#64 0xFFFFFFFFFFFFFF41#64).errorCode .derive = .range ∧
    (running .derive 0#64 0#64 0#64 0#64 0#64 0xFFFFFFFFFFFFFF40#64).errorCode .derive = .writeFault ∧
    busyDerive.errorCode .derive = .none := by decide

theorem witness_RangeError :
    136 ≤ busy128s.latch.seclen.toNat ∧ plat.addrWidth = 64 ∧ (Instr.hash64 = .hash64 ∨ Instr.hash64 = .hash128) := by decide

theorem witness_ShortSecret :
    (running .hash128s 0#64 0#64 0#64 0#64 135#64 0#64).latch.seclen.toNat < 136 ∧
    (running .hash128s 0#64 0#64 0#64 0#64 0#64 0#64).latch.seclen.toNat < 136 := by decide

/-- An unreadable byte of IR, at its last byte, and one of SR. -/
theorem witness_UnreadableByte :
    (Instr.hash128 ≠ .derive ∧
      (∀ r ∈ declaredRanges (running .hash128 0x1000#64 0xF001#64 0#64 0#64 0#64 0#64).latch .hash128, rangeFits plat r) ∧
      plat.readOK 0x10000 = false ∧
      (inputRange (running .hash128 0x1000#64 0xF001#64 0#64 0#64 0#64 0#64).latch).contains 0x10000 = true) ∧
    (136 ≤ (running .hash128s 0#64 0#64 0#64 0xFFC0#64 192#64 0#64).latch.seclen.toNat ∧
      (∀ r ∈ declaredRanges (running .hash128s 0#64 0#64 0#64 0xFFC0#64 192#64 0#64).latch .hash128s, rangeFits plat r) ∧
      (secretRange (running .hash128s 0#64 0#64 0#64 0xFFC0#64 192#64 0#64).latch).contains 0x10000 = true) := by
  have h : ∀ l : List Region, l.all (inRange plat) = true → ∀ r ∈ l, rangeFits plat r := fun l hl r hr =>
    (inRange_iff _ _).1 (List.all_eq_true.1 hl r hr)
  exact ⟨⟨by decide, h _ (by decide), by decide, by decide⟩, by decide, h _ (by decide), by decide⟩

/-- Half of the window is writable. -/
theorem witness_WriteFault :
    Memory.wf (running .derive 0#64 0#64 0#64 0#64 0#64 0xFF80#64).mem ∧
    (running .derive 0#64 0#64 0#64 0#64 0#64 0xFF80#64).dutyBroken = false ∧
    rangeFits plat (writeRange (running .derive 0#64 0#64 0#64 0#64 0#64 0xFF80#64).latch) ∧
    (writeRange (running .derive 0#64 0#64 0#64 0#64 0#64 0xFF80#64).latch).contains 0x10000 = true ∧
    plat.writeOK 0x10000 = false ∧ plat.writeOK (0xFF80 + 0) = true ∧ plat.writeOK (0xFF80 + 127) = true :=
  ⟨by decide, rfl, (inRange_iff _ _).1 (by decide), by decide, by decide, by decide, by decide⟩

theorem witness_ErrorCompletion :
    (running .derive 0#64 0#64 0#64 0#64 0#64 0xFF80#64).errorCode .derive ≠ .none ∧
    (running .hash64 0xFFFFFFFFFFFFFFF0#64 17#64 0#64 0#64 0#64 0#64).dutyBroken = false ∧
    (running .hash64 0xFFFFFFFFFFFFFFF0#64 17#64 0#64 0#64 0#64 0#64).errorCode .hash64 ≠ .none ∧
    Memory.wf (running .hash64 0xFFFFFFFFFFFFFFF0#64 17#64 0#64 0#64 0#64 0#64).mem ∧
    (writeRange (running .derive 0#64 0#64 0#64 0#64 0#64 0xFF80#64).latch).contains 0xFF7F = false ∧
    (writeRange (running .derive 0#64 0#64 0#64 0#64 0#64 0xFF80#64).latch).contains 0x10040 = false := by
  decide

theorem witness_CommandsFrame :
    ∀ i : Instr, Memory.wf busyDerive.mem ∧ ∃ t, exec i busyDerive = .next t := by
  intro i
  obtain ⟨lo, hi, h, -⟩ := exec_completes i busyDerive
  exact ⟨by decide, _, h⟩

theorem witness_HostCannotDisturb : (withOps busy64 [.write 0xF0000028#64 (busBytes 7#64)]).phase = .busy := rfl

/-- A reset that clears a result, and a digest delivered where 0 stood. -/
theorem witness_ResultsChange :
    (∃ t, step (withTurn { quiet with resultLo := 1#64 } .reset) = .next t ∧
      ¬ (withTurn { quiet with resultLo := 1#64 } .reset).SameResults t) ∧
    ∃ t, step (running .hash64 0#64 0#64 0#64 0#64 0#64 0#64) = .next t ∧
      ¬ (running .hash64 0#64 0#64 0#64 0#64 0#64 0#64).SameResults t := by
  refine ⟨⟨_, rfl, fun h => ?_⟩, ⟨_, rfl, fun h => ?_⟩⟩
  · exact absurd h.1 (by decide)
  · exact absurd h.1 (by decide +kernel)

def writesReg (s : State) (addr v : Word) : State := withTurn (withOps s [.write addr (busBytes v)]) (.host 0)

/-- Host 0 writes a register at its turn. -/
theorem writesReg_writes (s : State) (addr v : Word) (r : Reg) (h : accessTarget s.platform addr 8 = .register r)
    (hv : busWord (busBytes v) = v) : (writesReg s addr v).HostWrites r v :=
  ⟨0, _, addr, busBytes v, [], rfl, rfl, rfl, h, hv⟩

theorem witness_PhaseChanges :
    (quiet.phase = .idle ∧ (writesReg quiet 0xF0000020#64 0x1#64).HostWrites .cmd 0x1#64) ∧
    (busy64.phase = .busy ∧ busy64.nextTurn = .engine) ∧
    ∃ t, step (writesReg quiet 0xF0000020#64 0x1#64) = .next t ∧ t.phase = .busy :=
  ⟨⟨rfl, writesReg_writes _ _ _ _ (by decide) (by decide)⟩, ⟨rfl, rfl⟩, _, rfl, by decide⟩

/-- OVR set by a dropped command, kept by an issue, cleared by its acknowledgement and by reset. -/
theorem witness_Overrun :
    ((writesReg busy64 0xF0000020#64 0x1#64).HostWrites .cmd 0x1#64 ∧ busy64.status.ovr = false ∧
      (∃ t, step (writesReg busy64 0xF0000020#64 0x1#64) = .next t ∧ t.status.ovr = true)) ∧
    ((0x8#64 : Word).getLsbD 3 = true ∧
      (writesReg { quiet with status := ⟨false, false, true, .none, none⟩ } 0xF0000018#64 0x8#64).HostWrites .status 0x8#64) ∧
    (writesReg { quiet with status := ⟨false, false, true, .none, none⟩ } 0xF0000020#64 0x1#64).HostWrites .cmd 0x1#64 ∧
    (withTurn quiet .reset).nextTurn = .reset :=
  ⟨⟨writesReg_writes _ _ _ _ (by decide) (by decide), rfl, _, rfl, by decide⟩, ⟨by decide, writesReg_writes _ _ _ _ (by decide) (by decide)⟩,
    writesReg_writes _ _ _ _ (by decide) (by decide), rfl⟩

/-- A store changes a byte, and a DERIVE does. -/
theorem witness_MemoryChanges :
    (∃ t, step (withTurn (withOps quiet [.write 0x40#64 [0x7#8]]) (.host 0)) = .next t ∧
      Memory.read t.mem 0x40 ≠ Memory.read quiet.mem 0x40) ∧
    Memory.wf busyDerive.mem ∧
    ∃ t, step busyDerive = .next t ∧ Memory.read t.mem 0x3000 ≠ Memory.read busyDerive.mem 0x3000 := by
  refine ⟨⟨_, rfl, by decide +kernel⟩, by decide, ⟨_, rfl, by decide +kernel⟩⟩

theorem witness_Invariant : busyDerive.Inv ∧ ∃ t, step busyDerive = .next t := by
  refine ⟨⟨by decide, by decide, by decide, rfl, rfl, fun _ => ⟨rfl, rfl⟩, ?_, fun _ => rfl, fun h => by cases h⟩, _, rfl⟩
  intro b h
  cases h

theorem witness_ParametersNeverChange : ∃ t, step busy64 = .next t := ⟨_, rfl⟩

theorem witness_ResetLeaves : quiet.resetEngine ∈ [quiet.resetEngine, State.reset] ∧ quiet.phase = .idle :=
  ⟨by simp, rfl⟩

theorem witness_ResetAborts :
    (busyDerive.phase = .busy ∧ busyDerive.dutyBroken = false ∧ Memory.wf busyDerive.mem ∧
      (writeRange busyDerive.latch).contains 0x2FFF = false ∧ (writeRange busyDerive.latch).contains 0x30C0 = false) ∧
    busy64.fetch ≠ .command .derive := by decide

/-- With a host's turn before the engine's. -/
theorem witness_EveryIssuedCommandCompletes :
    (withTurn busy64 (.host 0)).phase = .busy ∧ Turn.reset ∉ (withTurn busy64 (.host 0)).schedule := by decide

theorem witness_SeedZeroWindow :
    (running .derive 0#64 0#64 0#64 0#64 0#64 0#64).latch.seed = 0#64 ∧
    Memory.wf (running .derive 0#64 0#64 0#64 0#64 0#64 0#64).mem := by decide

/-- Buffers that differ, but only above their lengths. -/
theorem witness_DigestDepends :
    (∀ k, k < 240 → (fun _ => 0#8 : Nat → Byte) k = (fun k => if k < 240 then 0#8 else 1#8 : Nat → Byte) k) ∧
    (fun _ => 0#8 : Nat → Byte) 240 ≠ (fun k => if k < 240 then 0#8 else 1#8 : Nat → Byte) 240 ∧
    (∀ k, k < 136 → kSecret k = (fun k => if k < 136 then kSecret k else 0#8 : Nat → Byte) k) ∧ 136 ≤ 136 ∧ 240 ≤ 240 := by
  refine ⟨fun k h => by simp [h], by decide, fun k h => by simp [h], by decide, by decide⟩

theorem witness_Xxh64Depends :
    ∀ k, k < 33 → (fun _ => 0#8 : Nat → Byte) k = (fun k => if k < 33 then 0#8 else 1#8 : Nat → Byte) k :=
  fun k h => by simp [h]

theorem witness_Geometry : 136 ≤ 136 ∧ 240 < 241 := by decide

theorem witness_SeededLongPath : 240 < 241 ∧ (1#64 : Word) ≠ 0#64 := by decide

def kSecretInMemory : State :=
  { running .hash128s 0x1000#64 3#64 0#64 0x2000#64 192#64 0#64 with mem := busWriteBytes plat 0x2000 kSecret 192 [] }

theorem kSecretInMemory_byte (k : Nat) (hk : k < 192) : Memory.read kSecretInMemory.mem (0x2000 + k) = kSecret k := by
  have hb : plat.block.contains (0x2000 + k) = false := by
    simp [Platform.block, plat, Region.contains]
    omega
  have hl : 0x2000 + k < plat.addrLimit := by
    have : plat.addrLimit = 2 ^ 64 := by decide
    omega
  simp only [kSecretInMemory]
  rw [busWriteBytes_read _ _ _ _ _ _ (by decide), if_pos ⟨by omega, by omega, hb, hl⟩, Nat.add_sub_cancel_left]

theorem witness_DefaultSecret :
    kSecretInMemory.InputReady ∧ kSecretInMemory.SecretReady ∧ kSecretInMemory.latch.seclen = 192#64 ∧
    ∀ k, k < 192 → Memory.read kSecretInMemory.mem (kSecretInMemory.latch.secaddr.toNat + k) = kSecret k :=
  ⟨inputReady _ rfl (by decide) (by decide) (by decide), secretReady _ (by decide) (by decide) (by decide) (by decide), rfl,
    kSecretInMemory_byte⟩

/-- The same command on two backends, with memories that differ outside its input. -/
theorem witness_CompletionsArePure :
    busy64.dutyBroken = false ∧ Memory.wf busy64.mem ∧ Memory.wf (storing busy64 0x5000 ramp 4).mem ∧
    ((storing busy64 0x5000 ramp 4).withBackend .scalar).latch = { busy64.latch with backend := .scalar } ∧
    (∀ r ∈ readRanges busy64.latch .hash64, ∀ a, r.contains a = true →
      plat.volatile a = false ∧ Memory.read (storing busy64 0x5000 ramp 4).mem a = Memory.read busy64.mem a) ∧
    (storing busy64 0x5000 ramp 4).mem ≠ busy64.mem := by
  refine ⟨rfl, by decide, by decide +kernel, rfl, ?_, by decide +kernel⟩
  intro r hr a ha
  have hr : r = ⟨0x1000, 3⟩ := by simpa [readRanges, inputRange, busy64, running] using hr
  subst hr
  rw [Region.contains_iff] at ha
  have : a = 0x1000 ∨ a = 0x1001 ∨ a = 0x1002 := by
    simp only at ha
    omega
  rcases this with rfl | rfl | rfl <;> exact ⟨by decide, by decide +kernel⟩

/-- STATUS as read after a completion on each backend (10_state.md R26). -/
theorem witness_BackendCodes :
    ∀ u ∈ [(none : Option Backend), some .scalar, some .narrow, some .wide],
      { quiet with status := ⟨false, false, false, .none, u⟩ }.status.backendUsed = u := by decide

/-- The first and the last reserved offset. -/
theorem witness_ReservedOffsets : 0x68 ≤ 0x68 ∧ 0x68 < 0x100 ∧ 0x68 ≤ 0xF8 ∧ 0xF8 < 0x100 := by decide

theorem witness_Codecs : 0 < 8 ∧ 7 < 8 := by decide

/-- Host 0 stores at the last byte of the input of a running HASH64, and just above it. -/
theorem witness_StoreIntoRange :
    ∀ addr ∈ [(0x1002#64 : Word), 0x1003#64],
      busy64.phase = .busy ∧ busy64.fetch = .command .hash64 ∧ busy64.dutyBroken = false ∧
      accessTarget plat addr 1 = .memory ∧ memoryAnswers plat plat.writeFaults (accessRegion addr 1) = true ∧
      ∃ h, (withOps busy64 [.write addr [9#8]]).hosts[0]? = some h ∧ h.ops = .write addr [9#8] :: [] := by
  intro addr h
  simp only [List.mem_cons, List.not_mem_nil, or_false] at h
  rcases h with rfl | rfl <;> exact ⟨rfl, by decide, rfl, by decide, by decide, _, rfl, rfl⟩

/-- An input whose last byte is a device's, and a caller's secret that holds one. -/
def device64 : State := { busy64 with platform := { plat with sideEffects := [⟨0x1002, 1⟩] } }
def device128s : State := { busy128s with platform := { plat with sideEffects := [⟨0x200F, 1⟩] } }

theorem witness_DeviceBytes :
    (device64.errorCode .hash64 = .none ∧ device64.dutyBroken = false ∧
      ∃ inp sec : Nat → Byte,
        (∀ k, inp k = if k < device64.latch.len.toNat ∧ device64.platform.volatile (device64.latch.src.toNat + k) = true
          then Config.freeInput device64.draws k else Memory.read device64.mem (device64.latch.src.toNat + k)) ∧
        (∀ k, sec k = if k < device64.latch.seclen.toNat ∧
            device64.platform.volatile (device64.latch.secaddr.toNat + k) = true
          then Config.freeSecret device64.draws k else Memory.read device64.mem (device64.latch.secaddr.toNat + k)) ∧
        inp 2 = Config.freeInput 0 2 ∧ inp 1 = 0#8) ∧
    (device128s.errorCode .hash128s = .none ∧ device128s.platform.volatile (0x2000 + 15) = true ∧
      device128s.platform.volatile (0x2000 + 16) = false) := by
  refine ⟨⟨by decide, rfl, _, _, fun k => rfl, fun k => rfl, ?_, ?_⟩, by decide, by decide, by decide⟩
  · rw [if_pos (by decide)]
    rfl
  · rw [if_neg (by decide)]
    decide

/-- CSEC(136) below offset 32 and device bytes above: 17 bytes of input use the first 32 bytes of the secret only
(42_h128_medium.md R173), so the digest is the one of 95_test_vectors.md 2.5. -/
theorem test_hash128s_unread_device_bytes :
    after (storing (storing { running .hash128s 0x1000#64 17#64 0#64 0x2000#64 136#64 0#64 with
        platform := { plat with sideEffects := [⟨0x2020, 104⟩] } } 0x1000 ramp 17) 0x2000
      (fun i => BitVec.ofNat 8 (7 * i + 1)) 32) outcome =
      some (0x30002#64, 0x0B72A39E88172EA8#64, 0xC6DCE5287AC6880D#64) := by decide +kernel

theorem witness_BrokenDuty :
    { busyDerive with dutyBroken := true }.dutyBroken = true ∧ Memory.wf { busyDerive with dutyBroken := true }.mem := by
  decide

theorem witness_Wait :
    ∀ s ∈ [withOps quiet [.waitIdle], withOps busy64 [.waitIdle]],
      ∃ h, s.hosts[0]? = some h ∧ h.ops = .waitIdle :: [] := by
  intro s hs
  simp only [List.mem_cons, List.not_mem_nil, or_false] at hs
  rcases hs with rfl | rfl <;> exact ⟨_, rfl, rfl⟩

/-- A store at the last byte a host can store to on this platform, and a load there. -/
theorem witness_HostAccesses :
    Memory.wf quiet.mem ∧ accessTarget plat 0xFFFF#64 1 = .memory ∧
    memoryAnswers plat plat.writeFaults (accessRegion 0xFFFF#64 1) = true ∧
    memoryAnswers plat plat.readFaults (accessRegion 0xFFFF#64 1) = true ∧
    (∃ h, (withOps quiet [.write 0xFFFF#64 [9#8]]).hosts[0]? = some h ∧ h.ops = .write 0xFFFF#64 [9#8] :: []) ∧
    ∃ h, (withOps quiet [.read 0xFFFF#64 1]).hosts[0]? = some h ∧ h.ops = .read 0xFFFF#64 1 :: [] :=
  ⟨by decide, by decide, by decide, by decide, ⟨_, rfl, rfl⟩, ⟨_, rfl, rfl⟩⟩

/-- A load of the last byte of the WR of a running DERIVE, and one just above it. -/
theorem witness_HostLoads :
    busyDerive.deriveInFlight = true ∧ busyDerive.dutyBroken = false ∧
    (writeRange busyDerive.latch).contains (0x30BF + 0) = true ∧ (writeRange busyDerive.latch).contains (0x30BF + 1) = false ∧
    plat.volatile (0x30BF + 1) = false ∧ accessTarget plat 0x30BF#64 2 = .memory ∧
    memoryAnswers plat plat.readFaults (accessRegion 0x30BF#64 2) = true := by decide

end Sys2Proof.Tests
end

section
/-! PROOF. The invariant of the state: what each operation keeps of it, and that every step keeps it. -/

namespace Sys2Proof.Machine

open Sys2Proof

/-! Backends. -/

theorem widestBackend_present (p : Platform) : backendPresent p (widestBackend p) = true := by
  unfold widestBackend
  split_ifs with hw hn
  · exact hw
  · exact hn
  · rfl

/-- Every request resolves to a present backend (44_secret_and_backends.md R223). -/
theorem effectiveBackend_present (p : Platform) (b : BackendSel) : backendPresent p (effectiveBackend p b) = true := by
  cases b with
  | auto => exact widestBackend_present p
  | scalar => rfl
  | narrow =>
    simp only [effectiveBackend]
    split_ifs with h
    · exact h
    · exact widestBackend_present p
  | wide =>
    simp only [effectiveBackend]
    split_ifs with h
    · exact h
    · exact widestBackend_present p

/-! Memory. -/

/-- Memory is in its one form and lists only bytes the bus can write: the first three clauses of `State.Inv`, as a claim
about a memory, so that a write is argued once for every operation that makes one. -/
structure Memory.Placed (p : Platform) (m : Memory) : Prop where
  form : Memory.wf m
  cells : ∀ c ∈ m, busWritable p c.1

theorem State.Inv.placed {s : State} (h : s.Inv) : Memory.Placed s.platform s.mem :=
  ⟨h.memForm, fun c hc => ⟨h.memOutside c hc, h.memBound c hc⟩⟩

/-- A bus write of any bytes anywhere leaves memory placed. -/
theorem Memory.Placed.busWriteBytes {p : Platform} {m : Memory} (h : Memory.Placed p m) (a : Nat) (f : Nat → Byte)
    (n : Nat) : Memory.Placed p (busWriteBytes p a f n m) :=
  ⟨busWriteBytes_wf p a f n m h.form, fun c hc => (busWriteBytes_mem p a f n m c hc).elim id (h.cells c)⟩

theorem Memory.Placed.memoryAfter {s : State} (h : Memory.Placed s.platform s.mem) (i : Instr) :
    Memory.Placed s.platform (memoryAfter i s) :=
  ⟨memoryAfter_wf i s h.form, fun c hc => (memoryAfter_mem i s c hc).elim id (h.cells c)⟩

theorem Memory.Placed.abortedMemory {s : State} (h : Memory.Placed s.platform s.mem) :
    Memory.Placed s.platform s.abortedMemory := by
  unfold State.abortedMemory
  split_ifs
  · exact h.busWriteBytes _ _ _
  · exact h

/-! The invariant under the operations. -/

/-- The invariant says nothing of the agents and of the count of draws. -/
theorem State.Inv.withAgents {s : State} (h : s.Inv) (hs : List HostAgent) (sch : List Turn) (d : Nat) :
    State.Inv { s with hosts := hs, schedule := sch, draws := d } :=
  ⟨h.memForm, h.memBound, h.memOutside, h.irqIsLevel, h.errHasCode, h.busyIsClear, h.usedPresent, h.latchPresent,
    h.idleDuty⟩

/-- A completion of a running command keeps the invariant, whatever memory it leaves in place and whatever it delivers. -/
theorem State.Inv.complete {s : State} (h : s.Inv) (hb : s.phase = .busy) {m : Memory}
    (hm : Memory.Placed s.platform m) (lo hi : Word) (c : ErrorCode) :
    (State.complete { s with mem := m, resultLo := lo, resultHi := hi } c).Inv where
  memForm := hm.form
  memBound d hd := (hm.cells d hd).2
  memOutside d hd := (hm.cells d hd).1
  irqIsLevel := rfl
  errHasCode := rfl
  busyIsClear hp := by simp at hp
  usedPresent b he := by
    obtain rfl : s.latch.backend = b := Option.some.inj he
    exact h.latchPresent hb
  latchPresent hp := by simp at hp
  idleDuty _ := rfl

theorem State.Inv.resetEngine {s : State} (h : s.Inv) : s.resetEngine.Inv where
  memForm := h.placed.abortedMemory.form
  memBound c hc := (h.placed.abortedMemory.cells c hc).2
  memOutside c hc := (h.placed.abortedMemory.cells c hc).1
  irqIsLevel := rfl
  errHasCode := rfl
  busyIsClear _ := ⟨rfl, rfl⟩
  usedPresent b he := by simp at he
  latchPresent hp := by simp at hp
  idleDuty _ := rfl

/-- Issue latches a present backend and clears DONE and ERR (46_commands.md R260). -/
theorem State.Inv.issue {s : State} (h : s.Inv) (w : Word) : (s.issue w).Inv where
  memForm := h.memForm
  memBound := h.memBound
  memOutside := h.memOutside
  irqIsLevel := rfl
  errHasCode := rfl
  busyIsClear _ := ⟨rfl, rfl⟩
  usedPresent := h.usedPresent
  latchPresent _ := effectiveBackend_present s.platform s.ctrl.backend
  idleDuty _ := rfl

/-- OVR is in no clause of the invariant. -/
theorem State.Inv.overrun {s : State} (h : s.Inv) : s.overrun.Inv :=
  ⟨h.memForm, h.memBound, h.memOutside, h.irqIsLevel, h.errHasCode, h.busyIsClear, h.usedPresent, h.latchPresent,
    h.idleDuty⟩

/-- A CTRL write is followed by IRQ (10_state.md R48). -/
theorem State.Inv.writeCtrl {s : State} (h : s.Inv) (w : Word) : (s.writeReg .ctrl w).Inv :=
  ⟨h.memForm, h.memBound, h.memOutside, rfl, h.errHasCode, h.busyIsClear, h.usedPresent, h.latchPresent, h.idleDuty⟩

/-- A STATUS write clears ERR and ERRCODE together (10_state.md R26), so they still agree. -/
theorem State.Inv.writeStatus {s : State} (h : s.Inv) (w : Word) : (s.writeReg .status w).Inv where
  memForm := h.memForm
  memBound := h.memBound
  memOutside := h.memOutside
  irqIsLevel := rfl
  errHasCode := by
    show (s.status.err && !w.getLsbD 2) = ((if w.getLsbD 2 then .none else s.status.errcode) != .none)
    rw [h.errHasCode]
    cases w.getLsbD 2 <;> simp
  busyIsClear hp := by
    obtain ⟨hd, he⟩ := h.busyIsClear hp
    exact ⟨by simp [State.writeReg, statusW1C, hd], by simp [State.writeReg, statusW1C, he]⟩
  usedPresent := h.usedPresent
  latchPresent := h.latchPresent
  idleDuty := h.idleDuty

theorem State.Inv.writeCmd {s : State} (h : s.Inv) (w : Word) : (s.writeCmd w).Inv := by
  unfold State.writeCmd
  cases s.phase with
  | idle => exact h.issue w
  | busy => exact h.overrun

/-- A write to an operand register meets no clause of the invariant, one to a read-only slot changes nothing. -/
theorem State.Inv.writeReg {s : State} (h : s.Inv) (r : Reg) (w : Word) : (s.writeReg r w).Inv := by
  cases r with
  | ctrl => exact h.writeCtrl w
  | status => exact h.writeStatus w
  | cmd => exact h.writeCmd w
  | id | caps | resultLo | resultHi | reserved => exact h
  | srcAddr | len | seed | secretAddr | secretLen | dstAddr =>
    exact ⟨h.memForm, h.memBound, h.memOutside, h.irqIsLevel, h.errHasCode, h.busyIsClear, h.usedPresent,
      h.latchPresent, h.idleDuty⟩

/-- A store while IDLE breaks no duty, since no command is running. -/
theorem State.breaksDuty_idle (s : State) (r : Region) (hp : s.phase = .idle) : s.breaksDuty r = false := by
  simp [State.breaksDuty, hp]

theorem State.Inv.hostStore {s : State} (h : s.Inv) (addr : Word) (bytes : List Byte) :
    (s.hostStore addr bytes).Inv where
  memForm := (h.placed.busWriteBytes _ _ _).form
  memBound c hc := ((h.placed.busWriteBytes _ _ _).cells c hc).2
  memOutside c hc := ((h.placed.busWriteBytes _ _ _).cells c hc).1
  irqIsLevel := h.irqIsLevel
  errHasCode := h.errHasCode
  busyIsClear := h.busyIsClear
  usedPresent := h.usedPresent
  latchPresent := h.latchPresent
  idleDuty hp := by
    rw [State.hostStore_phase] at hp
    simp [h.idleDuty hp, s.breaksDuty_idle _ hp]

theorem State.Inv.hostStep {s : State} (h : s.Inv) (n : Nat) : (s.hostStep n).Inv := by
  rcases hostStep_cases s n with ⟨hs, d, ht⟩ | ⟨_, _, bytes, _, r, hs, -, -, -, ht⟩ | ⟨_, addr, bytes, _, hs, -, -, -, -, ht⟩
  · exact ht ▸ h.withAgents hs _ d
  · exact ht ▸ (h.writeReg r (busWord bytes)).withAgents hs _ _
  · exact ht ▸ (h.hostStore addr bytes).withAgents hs _ _

/-- Settles O36: one case for each turn an agent can take, over the operations above. -/
theorem everyStepKeepsTheInvariant : Obligations.EveryStepKeepsTheInvariant := by
  intro s t h hstep
  have hpop : s.popTurn.Inv := h.withAgents _ _ _
  rcases step_inversion s t hstep with
    ⟨n, -, rfl⟩ | ⟨-, rfl⟩ | ⟨-, -, rfl⟩ | ⟨-, hb, -, rfl⟩ | ⟨-, hb, i, -, he⟩
  · exact hpop.hostStep n
  · exact hpop.resetEngine
  · exact hpop
  · exact hpop.complete hb hpop.placed _ _ _
  · obtain ⟨lo, hi, rfl, -⟩ := exec_inversion i _ t he
    exact hpop.complete hb (hpop.placed.memoryAfter i) lo hi _

end Sys2Proof.Machine
end

section
/-! PROOF. The register block (10_state.md R21-R33): what a read of each register returns after a write, bit by bit for CTRL
and STATUS, and how an access on the bus reaches its register. -/

namespace Sys2Proof.Machine

open Sys2Proof

/-! Masks, bit by bit. -/

theorem ctrlMask_bit (i : Nat) (hi : i < 64) : (0x103#64).getLsbD i = (decide (i < 2) || decide (i = 8)) := by
  have h : ∀ k : Fin 64, (0x103#64).getLsbD k = (decide (k.val < 2) || decide (k.val = 8)) := by decide
  exact h ⟨i, hi⟩

theorem flagMask_bit (i : Nat) (hi : i < 64) : (0xE#64).getLsbD i = (decide (1 ≤ i) && decide (i < 4)) := by
  have h : ∀ k : Fin 64, (0xE#64).getLsbD k = (decide (1 ≤ k.val) && decide (k.val < 4)) := by decide
  exact h ⟨i, hi⟩

theorem errcodeMask_bit (i : Nat) (hi : i < 64) : (0xFF00#64).getLsbD i = (decide (8 ≤ i) && decide (i < 16)) := by
  have h : ∀ k : Fin 64, (0xFF00#64).getLsbD k = (decide (8 ≤ k.val) && decide (k.val < 16)) := by decide
  exact h ⟨i, hi⟩

/-! CTRL. -/

/-- CTRL bit by bit after a write (R25). -/
theorem ctrlWord_ctrlOfWord_bit (w : Word) (i : Nat) (hi : i < 64) :
    (ctrlWord (ctrlOfWord w)).getLsbD i = ((decide (i < 2) && w.getLsbD i) || (decide (i = 8) && w.getLsbD 8)) := by
  simp [ctrlWord, ctrlOfWord, selBits_selOfBits, fieldAt_bit _ _ i hi, flagAt_bit _ _ i hi]

/-- CTRL stores the bits of the mask `0x103` and no other. -/
theorem ctrlWord_ctrlOfWord (w : Word) : ctrlWord (ctrlOfWord w) = w &&& 0x103#64 := by
  refine BitVec.eq_of_getLsbD_eq fun i hi => ?_
  rw [ctrlWord_ctrlOfWord_bit w i hi, BitVec.getLsbD_and, ctrlMask_bit i hi]
  by_cases h8 : i = 8
  · simp [h8]
  · simp [h8, Bool.and_comm]

/-- Settles O11: the bits CTRL stores, and IRQ recomputed from the new IE. -/
theorem controlKeepsBackendAndEnableBitsOnly : Obligations.ControlKeepsBackendAndEnableBitsOnly :=
  fun _ w => ⟨ctrlWord_ctrlOfWord w, rfl⟩

/-! STATUS. -/

/-- The bits a STATUS write clears: the named flags, and ERRCODE with ERR (R26). -/
theorem statusClearMask_bit (w : Word) (i : Nat) (hi : i < 64) :
    ((w &&& 0xE#64) ||| (if w.getLsbD 2 then 0xFF00#64 else 0#64)).getLsbD i =
      ((decide (1 ≤ i) && decide (i < 4) && w.getLsbD i) || (decide (8 ≤ i) && decide (i < 16) && w.getLsbD 2)) := by
  rw [BitVec.getLsbD_or, BitVec.getLsbD_and, flagMask_bit i hi]
  cases w.getLsbD 2
  · simp [Bool.and_comm]
  · simp [errcodeMask_bit i hi, Bool.and_comm]

/-- ERRCODE after a STATUS write: it reads 0 where bit 2 was written. -/
theorem errorByte_clear_bit (b : Bool) (c : ErrorCode) (j : Nat) :
    (errorByte (if b then .none else c)).getLsbD j = ((errorByte c).getLsbD j && !b) := by
  cases b
  · simp
  · simp [errorByte]

/-- STATUS after a write is STATUS before it without the cleared bits. -/
theorem statusWord_statusW1C (busy : Bool) (s : StatusReg) (w : Word) :
    statusWord busy (statusW1C s w) =
      statusWord busy s &&& ~~~((w &&& 0xE#64) ||| (if w.getLsbD 2 then 0xFF00#64 else 0#64)) := by
  refine BitVec.eq_of_getLsbD_eq fun i hi => ?_
  rw [BitVec.getLsbD_and, BitVec.getLsbD_not, statusClearMask_bit w i hi, statusWord_bit _ _ i hi, statusWord_bit _ _ i hi]
  simp only [statusW1C, errorByte_clear_bit, hi, decide_true, Bool.true_and]
  -- the four flags, the reserved bits 4 to 7, ERRCODE, and the bits from 16 on, which no write clears
  obtain rfl | rfl | rfl | rfl | h | h | h :
      i = 0 ∨ i = 1 ∨ i = 2 ∨ i = 3 ∨ (4 ≤ i ∧ i < 8) ∨ (8 ≤ i ∧ i < 16) ∨ 16 ≤ i := by omega
  · simp
  · simp
  · simp
  · simp
  · grind
  · grind
  · grind

/-- Settles O12, by the bits of STATUS before and after the write. -/
theorem statusWriteClearsOnlyTheNamedFlags : Obligations.StatusWriteClearsOnlyTheNamedFlags :=
  fun s w => statusWord_statusW1C (s.phase == .busy) s.status w

/-! The other registers. -/

/-- Settles O10: each of the six registers is a field of its own, which no other read looks at. -/
theorem operandRegistersReadBackWhatWasWritten : Obligations.OperandRegistersReadBackWhatWasWritten := by
  intro s r r' v hr
  simp only [List.mem_cons, List.not_mem_nil, or_false] at hr
  rcases hr with rfl | rfl | rfl | rfl | rfl | rfl
  all_goals cases r' <;> rfl

/-- CAPS as the presence of each backend gives it (R24). -/
theorem capsWord_eq (p : Platform) :
    capsWord p = 1#64 ||| (if p.hasNarrow then 2#64 else 0#64) ||| (if p.hasWide then 4#64 else 0#64) := by
  unfold capsWord
  cases p.hasNarrow <;> cases p.hasWide <;> decide

/-- Settles O13: the write arms of these slots keep the state, and their reads are constants of the platform. -/
theorem readOnlyAndReservedSlotsIgnoreWrites : Obligations.ReadOnlyAndReservedSlotsIgnoreWrites :=
  fun s _ => ⟨rfl, rfl, rfl, rfl, rfl, rfl, capsWord_eq s.platform, rfl, rfl⟩

/-! Values on the bus (R22). -/

@[simp] theorem busBytes_length (w : Word) : (busBytes w).length = 8 := by simp [busBytes]

theorem busBytes_getElem? (w : Word) (k : Nat) (hk : k < 8) : (busBytes w)[k]? = some (w.extractLsb' (8 * k) 8) := by
  simp [busBytes, hk]

/-- The value of the lowest `n` bytes of a word, read from byte `i` on. -/
theorem busValue_extract (w : Word) (n i : Nat) :
    busValue ((List.range n).map fun k => w.extractLsb' (8 * (i + k)) 8) = w.toNat >>> (8 * i) % 2 ^ (8 * n) := by
  induction n generalizing i with
  | zero => simp [busValue, Nat.mod_one]
  | succ n ih =>
    have hrest : ((fun k => w.extractLsb' (8 * (i + k)) 8) ∘ Nat.succ) = fun k => w.extractLsb' (8 * (i + 1 + k)) 8 := by
      funext k
      simp only [Function.comp_apply, Nat.succ_eq_add_one, show i + (k + 1) = i + 1 + k by omega]
    have hshift : w.toNat >>> (8 * (i + 1)) = w.toNat >>> (8 * i) / 2 ^ 8 := by
      rw [Nat.mul_succ, Nat.shiftRight_add, Nat.shiftRight_eq_div_pow _ 8]
    rw [List.range_succ_eq_map, List.map_cons, List.map_map, hrest, busValue, ih, hshift, BitVec.extractLsb'_toNat,
      Nat.mul_succ, Nat.add_comm (8 * n), Nat.pow_add, Nat.mod_mul, Nat.add_zero]

/-- The bytes of a word on the bus have the word as their value. -/
@[simp] theorem busWord_busBytes (w : Word) : busWord (busBytes w) = w := by
  have h := busValue_extract w 8 0
  simp only [Nat.zero_add] at h
  exact BitVec.eq_of_toNat_eq (by simp [busWord, busBytes, h, Nat.mod_eq_of_lt w.isLt])

/-! The slots (R21). -/

theorem regAt_reserved (off : Nat) (h : 0x68 ≤ off) : regAt off = .reserved := by
  unfold regAt
  split
  any_goals omega
  rfl

/-- The address of a slot does not wrap where the block does not. -/
theorem slot_toNat (base : Word) (off : Nat) (hb : base.toNat + 256 ≤ 2 ^ 64) (ho : off < 256) :
    (base + BitVec.ofNat 64 off).toNat = base.toNat + off := by
  rw [BitVec.toNat_add, BitVec.toNat_ofNat]
  omega

/-- A 64-bit access at a multiple of 8 in the block reaches the register there. -/
theorem accessTarget_slot (p : Platform) (off : Nat) (hb : p.base.toNat + 256 ≤ 2 ^ 64) (ho : off < 256)
    (h8 : off % 8 = 0) : accessTarget p (p.base + BitVec.ofNat 64 off) 8 = .register (regAt off) := by
  have ha := slot_toNat p.base off hb ho
  have hm : (accessRegion (p.base + BitVec.ofNat 64 off) 8).meets p.block = true :=
    (Region.meets_iff _ _).2 ⟨p.base.toNat + off, by simp [Region.contains, accessRegion, ha],
      by simp [Region.contains, Platform.block, ho]⟩
  have hc : p.block.contains (p.base.toNat + off) = true := by simp [Region.contains, Platform.block, ho]
  have hs : p.base.toNat + off - p.block.start = off := Nat.add_sub_cancel_left _ _
  simp [accessTarget, hm, ha, hc, hs, h8]

/-- The step of a host that reads a register takes its value and changes nothing else. -/
theorem hostStep_readRegister (s : State) (n : Nat) (h : HostAgent) (addr : Word) (width : Nat) (rest : List HostOp)
    (r : Reg) (hh : s.hosts[n]? = some h) (ho : h.ops = .read addr width :: rest)
    (ht : accessTarget s.platform addr width = .register r) :
    s.hostStep n = s.putHost n { h with ops := rest, value := busBytes (s.readReg r) } := by
  simp [State.hostStep, hh, ho, State.hostRead, ht, HostAgent.advance, HostAgent.receive]

/-- Settles O14: the map, the bus order, and the slot an access at an offset reaches. -/
theorem alignedAccessReachesItsRegister : Obligations.AlignedAccessReachesItsRegister := by
  refine ⟨⟨rfl, rfl, rfl, rfl, rfl, rfl, rfl, rfl, rfl, rfl, rfl, rfl, rfl, fun off h _ => regAt_reserved off h⟩,
    busBytes_getElem?, fun s n off h v rest hb ho h8 hh => ⟨fun hw => ?_, fun hr => ?_⟩⟩
  · have ht := accessTarget_slot s.platform off hb ho h8
    rw [← busBytes_length v] at ht
    rw [hostStep_register s n h _ _ rest _ hh hw ht, busWord_busBytes]
  · exact hostStep_readRegister s n h _ 8 rest _ hh hr (accessTarget_slot s.platform off hb ho h8)

end Sys2Proof.Machine
end

section
/-! PROOF. When the results and the phase change (10_state.md R34, R35, R38). -/

namespace Sys2Proof.Machine

open Sys2Proof

/-! The results. -/

/-- No register write reaches the results: their slots are read-only (R34, R35). -/
theorem writeReg_results (s : State) (r : Reg) (w : Word) : s.SameResults (s.writeReg r w) := by
  cases r with
  | cmd =>
    simp only [State.writeReg, State.writeCmd]
    cases s.phase <;> exact ⟨rfl, rfl⟩
  | id | caps | ctrl | status | srcAddr | len | seed | secretAddr | secretLen | dstAddr | resultLo | resultHi | reserved =>
    exact ⟨rfl, rfl⟩

theorem hostStep_results (s : State) (n : Nat) : s.SameResults (s.hostStep n) := by
  rcases hostStep_cases s n with ⟨_, _, ht⟩ | ⟨_, _, bytes, _, r, _, -, -, -, ht⟩ | ⟨_, _, _, _, _, -, -, -, -, ht⟩
  · exact ht ▸ ⟨rfl, rfl⟩
  · exact ht ▸ writeReg_results s r (busWord bytes)
  · exact ht ▸ ⟨rfl, rfl⟩

/-- Under the duty a command that fails, and a DERIVE, leave the results. -/
theorem exec_results (i : Instr) (s t : State) (h : exec i s = .next t) (hd : s.dutyBroken = false)
    (hc : s.errorCode i ≠ .none ∨ i = .derive) : s.SameResults t := by
  obtain ⟨lo, hi, rfl, hr⟩ := exec_inversion i s t h
  exact hr hd hc

/-- Settles O31: of the turns only a reset and a hash command without error are left. -/
theorem resultsChangeOnlyAtHashSuccessOrReset : Obligations.ResultsChangeOnlyAtHashSuccessOrReset := by
  intro s t hstep hd hchange
  rcases step_inversion s t hstep with
    ⟨n, -, rfl⟩ | ⟨hn, -⟩ | ⟨-, -, rfl⟩ | ⟨-, -, -, rfl⟩ | ⟨hn, hb, i, hf, he⟩
  · exact absurd (hostStep_results s.popTurn n) hchange
  · exact .inl hn
  · exact absurd ⟨rfl, rfl⟩ hchange
  · exact absurd ⟨rfl, rfl⟩ hchange
  · have hok : ¬ (s.errorCode i ≠ .none ∨ i = .derive) := fun hc => hchange (exec_results i s.popTurn t he hd hc)
    obtain ⟨hcode, hi⟩ := not_or.1 hok
    exact .inr ⟨hn, hb, i, hi, hf, not_not.1 hcode⟩

/-! The phase. -/

/-- A register write sets the phase to BUSY if it is a CMD write, which issues or is dropped, and else leaves it. -/
theorem writeReg_phase (s : State) (r : Reg) (w : Word) :
    (s.writeReg r w).phase = if r = .cmd then .busy else s.phase := by
  cases r with
  | cmd =>
    simp only [State.writeReg, State.writeCmd]
    cases hp : s.phase with
    | idle => rfl
    | busy => exact hp
  | id | caps | ctrl | status | srcAddr | len | seed | secretAddr | secretLen | dstAddr | resultLo | resultHi | reserved =>
    rfl

/-- At a host's turn the phase stays, but for a CMD write, which leaves BUSY. -/
theorem hostTurn_phase (s : State) (n : Nat) (hn : s.nextTurn = .host n) :
    (s.popTurn.hostStep n).phase = s.phase ∨
      ((s.popTurn.hostStep n).phase = .busy ∧ ∃ w, s.HostWrites .cmd w) := by
  rcases hostStep_cases s.popTurn n with
    ⟨_, _, ht⟩ | ⟨h, addr, bytes, rest, r, _, hh, ho, htarget, ht⟩ | ⟨_, _, _, _, _, -, -, -, -, ht⟩
  · exact .inl (ht ▸ rfl)
  · have hp : (s.popTurn.hostStep n).phase = if r = .cmd then .busy else s.phase :=
      ht ▸ writeReg_phase s.popTurn r (busWord bytes)
    by_cases hr : r = .cmd
    · subst hr
      exact .inr ⟨hp, busWord bytes, n, h, addr, bytes, rest, hn, hh, ho, htarget, rfl⟩
    · exact .inl (by rw [hp, if_neg hr])
  · exact .inl (ht ▸ rfl)

/-- A host's write to a register is what its turn does to the phase. -/
theorem step_phase_of_hostWrites (s t : State) (r : Reg) (w : Word) (hstep : step s = .next t)
    (hw : s.HostWrites r w) : t.phase = if r = .cmd then .busy else s.phase := by
  obtain ⟨n, h, addr, bytes, rest, hn, hh, ho, htarget, rfl⟩ := hw
  have hs : step s = .next (s.popTurn.hostStep n) := by rw [step, hn]; rfl
  obtain rfl : s.popTurn.hostStep n = t := Host.Outcome.next.inj (hs.symm.trans hstep)
  rw [hostStep_register s.popTurn n h addr bytes rest r hh ho htarget]
  exact writeReg_phase s.popTurn r (busWord bytes)

/-- The phase after a step: IDLE after the engine's turn and after a reset; as before after a host's, but for a CMD write,
which leaves BUSY. -/
theorem step_phase_cases (s t : State) (hstep : step s = .next t) :
    ((s.nextTurn = .engine ∨ s.nextTurn = .reset) ∧ t.phase = .idle) ∨
    (∃ n, s.nextTurn = .host n) ∧ (t.phase = s.phase ∨ (t.phase = .busy ∧ ∃ w, s.HostWrites .cmd w)) := by
  rcases step_inversion s t hstep with
    ⟨n, hn, rfl⟩ | ⟨hn, rfl⟩ | ⟨hn, hp, rfl⟩ | ⟨hn, -, -, rfl⟩ | ⟨hn, -, i, -, he⟩
  · exact .inr ⟨⟨n, hn⟩, hostTurn_phase s n hn⟩
  · exact .inl ⟨.inr hn, rfl⟩
  · exact .inl ⟨.inl hn, hp⟩
  · exact .inl ⟨.inl hn, rfl⟩
  · obtain ⟨_, _, rfl, -⟩ := exec_inversion i _ t he
    exact .inl ⟨.inl hn, rfl⟩

theorem step_idle_of_turn (s t : State) (hstep : step s = .next t)
    (hn : s.nextTurn = .engine ∨ s.nextTurn = .reset) : t.phase = .idle := by
  rcases step_phase_cases s t hstep with ⟨-, hp⟩ | ⟨⟨n, hh⟩, -⟩
  · exact hp
  · simp [hh] at hn

/-- STATUS.BUSY reads the phase (R26, R38). -/
theorem statusValue_busy (s : State) : (s.readReg .status).getLsbD 0 = true ↔ s.phase = .busy := by
  rw [State.readReg, State.statusValue, statusWord_bit _ _ 0 (by decide)]
  simp

/-- Settles O32: the phase rises only by a CMD write and falls only at the engine's turn or a reset. -/
theorem phaseChangesOnlyByIssueCompletionReset : Obligations.PhaseChangesOnlyByIssueCompletionReset := by
  refine ⟨rfl, fun s t hstep => ⟨fun hi hb => ?_, fun hb hi => ?_, statusValue_busy t, ?_, fun hn => ?_, fun hn => ?_⟩⟩
  · rcases step_phase_cases s t hstep with ⟨-, hp⟩ | ⟨-, hp | ⟨-, hw⟩⟩
    · simp [hp] at hb
    · simp [hp, hi] at hb
    · exact hw
  · rcases step_phase_cases s t hstep with ⟨hn, -⟩ | ⟨-, hp | ⟨hp, -⟩⟩
    · exact hn
    · simp [hp, hb] at hi
    · simp [hp] at hi
  · rintro ⟨w, hw⟩
    exact step_phase_of_hostWrites s t .cmd w hstep hw
  · exact step_idle_of_turn s t hstep (.inl hn)
  · exact step_idle_of_turn s t hstep (.inr hn)

end Sys2Proof.Machine
end

section
/-! PROOF. The mixing backends (44_secret_and_backends.md R224-R228): every backend computes the functions of the scalar one,
so a digest does not depend on the backend. -/

namespace Sys2Proof.Machine

open Sys2Proof

/-! Lanes in groups. -/

/-- Two groups of four lanes, taken in order, are the eight lanes in order. -/
theorem wideLanes_flat : ((List.finRange 2).flatMap fun g => (List.finRange 4).map (wideLane g)) = List.finRange 8 := by
  decide

/-- Four groups of two lanes, taken in order, are the eight lanes in order. -/
theorem narrowLanes_flat :
    ((List.finRange 4).flatMap fun g => (List.finRange 2).map (narrowLane g)) = List.finRange 8 := by
  decide

/-- A loop over groups of four lanes is the loop over the lanes. -/
theorem foldl_wideLanes (f : Acc → Fin 8 → Acc) (acc : Acc) :
    (List.finRange 2).foldl (fun a g => (List.finRange 4).foldl (fun a j => f a (wideLane g j)) a) acc =
      (List.finRange 8).foldl f acc := by
  simp only [← wideLanes_flat, List.foldl_flatMap, List.foldl_map]

/-- A loop over groups of two lanes is the loop over the lanes. -/
theorem foldl_narrowLanes (f : Acc → Fin 8 → Acc) (acc : Acc) :
    (List.finRange 4).foldl (fun a g => (List.finRange 2).foldl (fun a j => f a (narrowLane g j)) a) acc =
      (List.finRange 8).foldl f acc := by
  simp only [← narrowLanes_flat, List.foldl_flatMap, List.foldl_map]

/-! Accumulate. -/

/-- The data word of lane `l` (R192). -/
def laneData (inp : Nat → Byte) (p l : Nat) : Word := le64 inp (p + 8 * l)

/-- The product of lane `l` (R192). -/
def laneProduct (inp : Nat → Byte) (p : Nat) (sec : Nat → Byte) (q l : Nat) : Word :=
  keyProduct (laneData inp p l ^^^ le64 sec (q + 8 * l))

/-- A value added to one lane of the accumulator. -/
def addLane (acc : Acc) (l : Fin 8) (v : Word) : Acc := acc.set l (acc[l] + v)

/-- What is added to a lane leaves the others. -/
theorem addLane_get (acc : Acc) (l k : Fin 8) (v : Word) : (addLane acc l v)[k] = acc[k] + if l = k then v else 0 := by
  by_cases h : l = k
  · subst h
    simp [addLane]
  · have hval : l.val ≠ k.val := fun hv => h (Fin.ext hv)
    simp [addLane, h, hval]

/-- A turn of the scalar loop adds the lane's data word to its neighbour and the product to the lane (R192). -/
theorem accumulateLane_eq (inp : Nat → Byte) (p : Nat) (sec : Nat → Byte) (q : Nat) (acc : Acc) (l : Fin 8) :
    accumulateLane inp p sec q acc l =
      addLane (addLane acc (lanePartner l) (laneData inp p l)) l (laneProduct inp p sec q l) := rfl

/-- One lane of the vector forms: its product and its neighbour's data word are added to it at once (R225, R226). -/
def accumulateVectorLane (inp : Nat → Byte) (p : Nat) (sec : Nat → Byte) (q : Nat) (acc : Acc) (l : Fin 8) : Acc :=
  addLane acc l (laneProduct inp p sec q l + laneData inp p (lanePartner l))

theorem groupData_get (n : Nat) (inp : Nat → Byte) (p g : Nat) (j : Fin n) :
    (groupData n inp p g)[j] = laneData inp p (n * g + j.val) := by
  simp only [groupData, laneData, Fin.getElem_fin, Vector.getElem_ofFn]

theorem groupProducts_get (n : Nat) (inp : Nat → Byte) (p : Nat) (sec : Nat → Byte) (q g : Nat) (j : Fin n) :
    (groupProducts n inp p sec q g)[j] = laneProduct inp p sec q (n * g + j.val) := by
  simp only [groupProducts, laneProduct, ← groupData_get, Fin.getElem_fin, Vector.getElem_ofFn]

/-- The swapped data words of a 4-lane group are those of the neighbours. -/
theorem swapWide_groupData (inp : Nat → Byte) (p : Nat) (g : Fin 2) (j : Fin 4) :
    (swapWide (groupData 4 inp p g.val))[j] = laneData inp p (lanePartner (wideLane g j)) := by
  have hswap : ∀ v : Vector Word 4, (swapWide v)[j] = v[j ^^^ 1] := fun v => by fin_cases j <;> rfl
  have hlane : ∀ (g : Fin 2) (j : Fin 4), (lanePartner (wideLane g j)).val = 4 * g.val + (j ^^^ 1).val := by decide
  rw [hswap, groupData_get, hlane]

/-- The swapped data words of a 2-lane group are those of the neighbours. -/
theorem swapNarrow_groupData (inp : Nat → Byte) (p : Nat) (g : Fin 4) (j : Fin 2) :
    (swapNarrow (groupData 2 inp p g.val))[j] = laneData inp p (lanePartner (narrowLane g j)) := by
  have hswap : ∀ v : Vector Word 2, (swapNarrow v)[j] = v[j ^^^ 1] := fun v => by fin_cases j <;> rfl
  have hlane : ∀ (g : Fin 4) (j : Fin 2), (lanePartner (narrowLane g j)).val = 2 * g.val + (j ^^^ 1).val := by decide
  rw [hswap, groupData_get, hlane]

theorem accumulate512Wide_eq_vectorLanes (acc : Acc) (inp : Nat → Byte) (p : Nat) (sec : Nat → Byte) (q : Nat) :
    accumulate512Wide acc inp p sec q = (List.finRange 8).foldl (accumulateVectorLane inp p sec q) acc := by
  have hgroup : accumulateWideGroup inp p sec q = fun a g =>
      (List.finRange 4).foldl (fun a j => accumulateVectorLane inp p sec q a (wideLane g j)) a := by
    funext a g
    simp only [accumulateWideGroup, groupProducts_get, swapWide_groupData, BitVec.add_assoc]
    rfl
  rw [accumulate512Wide, hgroup, foldl_wideLanes]

theorem accumulate512Narrow_eq_vectorLanes (acc : Acc) (inp : Nat → Byte) (p : Nat) (sec : Nat → Byte) (q : Nat) :
    accumulate512Narrow acc inp p sec q = (List.finRange 8).foldl (accumulateVectorLane inp p sec q) acc := by
  have hgroup : accumulateNarrowGroup inp p sec q = fun a g =>
      (List.finRange 2).foldl (fun a j => accumulateVectorLane inp p sec q a (narrowLane g j)) a := by
    funext a g
    simp only [accumulateNarrowGroup, groupProducts_get, swapNarrow_groupData, BitVec.add_assoc]
    rfl
  rw [accumulate512Narrow, hgroup, foldl_narrowLanes]

/-- A loop whose turn `l` adds `v l k` to every lane `k` adds the sum over its turns. -/
theorem foldl_adds (f : Acc → Fin 8 → Acc) (v : Fin 8 → Fin 8 → Word)
    (h : ∀ (a : Acc) (l k : Fin 8), (f a l)[k] = a[k] + v l k) (acc : Acc) (k : Fin 8) :
    ((List.finRange 8).foldl f acc)[k] = acc[k] + ∑ l, v l k := by
  have hlist : ∀ (ls : List (Fin 8)) (a : Acc), (ls.foldl f a)[k] = a[k] + (ls.map (v · k)).sum := by
    intro ls
    induction ls with
    | nil => simp
    | cons l ls ih =>
      intro a
      rw [List.foldl_cons, ih, h, List.map_cons, List.sum_cons, add_assoc]
  rw [hlist, Fin.sum_univ_def]

theorem lanePartner_eq_iff (l k : Fin 8) : lanePartner l = k ↔ l = lanePartner k := by
  revert l k
  decide

/-- The scalar loop leaves in every lane what the vector loop does: its product and its neighbour's data word. -/
theorem accumulate512Scalar_eq_vectorLanes (acc : Acc) (inp : Nat → Byte) (p : Nat) (sec : Nat → Byte) (q : Nat) :
    accumulate512Scalar acc inp p sec q = (List.finRange 8).foldl (accumulateVectorLane inp p sec q) acc := by
  have hscalar : ∀ (a : Acc) (l k : Fin 8), (accumulateLane inp p sec q a l)[k] =
      a[k] + ((if l = lanePartner k then laneData inp p l else 0) + if l = k then laneProduct inp p sec q l else 0) :=
    fun a l k => by rw [accumulateLane_eq, addLane_get, addLane_get, add_assoc]; simp only [lanePartner_eq_iff]
  have hvector : ∀ (a : Acc) (l k : Fin 8), (accumulateVectorLane inp p sec q a l)[k] =
      a[k] + if l = k then laneProduct inp p sec q l + laneData inp p (lanePartner l) else 0 :=
    fun a l k => addLane_get a l k _
  refine Vector.ext fun k hk => ?_
  have hs := foldl_adds _ _ hscalar acc ⟨k, hk⟩
  have hv := foldl_adds _ _ hvector acc ⟨k, hk⟩
  rw [Finset.sum_add_distrib, Finset.sum_ite_eq', Finset.sum_ite_eq', if_pos (Finset.mem_univ _),
    if_pos (Finset.mem_univ _), add_comm (laneData _ _ _)] at hs
  rw [Finset.sum_ite_eq', if_pos (Finset.mem_univ _)] at hv
  exact hs.trans hv.symm

theorem accumulate512_eq_scalar (b : Backend) : accumulate512 b = accumulate512Scalar := by
  funext acc inp p sec q
  rw [accumulate512Scalar_eq_vectorLanes]
  cases b with
  | scalar => exact accumulate512Scalar_eq_vectorLanes acc inp p sec q
  | narrow => exact accumulate512Narrow_eq_vectorLanes acc inp p sec q
  | wide => exact accumulate512Wide_eq_vectorLanes acc inp p sec q

/-! Scramble. -/

/-- A word from its two halves. -/
theorem halves_eq (a : Word) : a = zext64 (trunc32 a) + zext64 (trunc32 (a >>> 32)) <<< 32 := by
  simp only [zext64, trunc32, BitVec.truncate_eq_setWidth]
  bv_omega

/-- The 64 by 32 product as two 32 by 32 products (R227). -/
theorem mul_zext64 (a : Word) (p : Half) :
    a * zext64 p = mul32to64 (trunc32 a) p + (mul32to64 (trunc32 (a >>> 32)) p <<< 32) :=
  calc a * zext64 p
      = (zext64 (trunc32 a) + zext64 (trunc32 (a >>> 32)) <<< 32) * zext64 p := congrArg (· * zext64 p) (halves_eq a)
    _ = _ := by simp only [mul32to64, BitVec.shiftLeft_eq_mul_twoPow, add_mul, mul_right_comm]

theorem scrambleVectorLane_eq (sec : Nat → Byte) (q : Nat) (acc : Acc) (l : Fin 8) :
    scrambleVectorLane sec q acc l = scrambleLane sec q acc l := by
  rw [scrambleVectorLane, scrambleLane, mul_zext64]
  rfl

theorem scramble_eq_scalar (b : Backend) : scramble b = scrambleScalar := by
  funext acc sec q
  cases b with
  | scalar => rfl
  | narrow => simp only [scramble, scrambleNarrow, scrambleScalar, scrambleVectorLane_eq, foldl_narrowLanes]
  | wide => simp only [scramble, scrambleWide, scrambleScalar, scrambleVectorLane_eq, foldl_wideLanes]

/-! Derivation. -/

/-- The seed vectors add the seed at even lanes and take it away at odd ones, as R220 does. -/
theorem derivedWideGroup_get (seed : Word) (g : Nat) (j : Fin 4) :
    (derivedWideGroup seed g)[j] = derivedLane seed (4 * g + j.val) := by
  have hparity : (4 * g + j.val) % 2 = j.val % 2 := by omega
  simp only [derivedWideGroup, derivedLane, Fin.getElem_fin, Vector.getElem_ofFn, hparity]
  fin_cases j <;> rfl

theorem derivedNarrowGroup_get (seed : Word) (g : Nat) (j : Fin 2) :
    (derivedNarrowGroup seed g)[j] = derivedLane seed (2 * g + j.val) := by
  have hparity : (2 * g + j.val) % 2 = j.val % 2 := by omega
  simp only [derivedNarrowGroup, derivedLane, Fin.getElem_fin, Vector.getElem_ofFn, hparity]
  fin_cases j <;> rfl

theorem deriveSecretWide_eq (seed : Word) : deriveSecretWide seed = deriveSecretScalar seed := by
  refine congrArg Vector.ofFn (funext fun i => ?_)
  have hlane : 4 * (i.val / 32) + i.val % 32 / 8 = i.val / 8 := by omega
  rw [← hlane]
  exact congrArg (encLE64 · _) (derivedWideGroup_get seed (i.val / 32) ⟨i.val % 32 / 8, by omega⟩)

theorem deriveSecretNarrow_eq (seed : Word) : deriveSecretNarrow seed = deriveSecretScalar seed := by
  refine congrArg Vector.ofFn (funext fun i => ?_)
  have hlane : 2 * (i.val / 16) + i.val % 16 / 8 = i.val / 8 := by omega
  rw [← hlane]
  exact congrArg (encLE64 · _) (derivedNarrowGroup_get seed (i.val / 16) ⟨i.val % 16 / 8, by omega⟩)

theorem deriveSecret_eq_scalar (b : Backend) : deriveSecret b = deriveSecretScalar := by
  funext seed
  cases b with
  | scalar => rfl
  | narrow => exact deriveSecretNarrow_eq seed
  | wide => exact deriveSecretWide_eq seed

/-! The long path (43_h128_long.md). -/

theorem accumulateFrom_eq_scalar (b : Backend) (inp sec : Nat → Byte) (n p q : Nat) (acc : Acc) :
    accumulateFrom b inp sec n p q acc = accumulateFrom .scalar inp sec n p q acc := by
  induction n generalizing p q acc with
  | zero => rfl
  | succ n ih => rw [accumulateFrom, accumulateFrom, accumulate512_eq_scalar b, accumulate512_eq_scalar .scalar, ih]

theorem accumulate_eq_scalar (b : Backend) : accumulate b = accumulate .scalar := by
  funext acc inp p sec n
  exact accumulateFrom_eq_scalar b inp sec n p 0 acc

theorem fullBlocks_eq_scalar (b : Backend) (inp sec : Nat → Byte) (secLen n p : Nat) (acc : Acc) :
    fullBlocks b inp sec secLen n p acc = fullBlocks .scalar inp sec secLen n p acc := by
  induction n generalizing p acc with
  | zero => rfl
  | succ n ih =>
    rw [fullBlocks, fullBlocks, accumulate_eq_scalar b, scramble_eq_scalar b, scramble_eq_scalar .scalar, ih]

theorem hashLong128_eq_scalar (b : Backend) : hashLong128 b = hashLong128 .scalar := by
  funext inp len sec secLen
  simp only [hashLong128, longLoop, fullBlocks_eq_scalar b, accumulate_eq_scalar b, accumulate512_eq_scalar]

/-- A digest is the same on every backend (R224). -/
theorem h128_eq_scalar (b : Backend) : h128 b = h128 .scalar := by
  funext inp len sec secLen seed
  simp only [h128, h128Long, hashLong128_eq_scalar b, deriveSecret_eq_scalar]

end Sys2Proof.Machine
end

section
/-! PROOF. System memory (20_memory.md): what a host's access does to it, the host's duty and what a command delivers once it
is broken, and which bytes of memory a step can change. -/

namespace Sys2Proof.Machine

open Sys2Proof

/-! Bytes a host stores. -/

/-- What a store leaves at every address: its byte where the bus can write, the old byte elsewhere. -/
theorem busWriteList_read (p : Platform) (a : Nat) (bytes : List Byte) (m : Memory) (b : Nat) (h : Memory.wf m) :
    Memory.read (busWriteList p a bytes m) b =
      if a ≤ b ∧ b < a + bytes.length ∧ p.block.contains b = false ∧ b < p.addrLimit then bytes.getD (b - a) 0#8
      else Memory.read m b :=
  busWriteBytes_read p a _ bytes.length m b h

/-- A store leaves every byte its access does not cover. -/
theorem busWriteList_read_outside (p : Platform) (addr : Word) (bytes : List Byte) (m : Memory) (a : Nat)
    (h : Memory.wf m) (ha : ¬ (accessRegion addr bytes.length).contains a = true) :
    Memory.read (busWriteList p addr.toNat bytes m) a = Memory.read m a := by
  rw [Region.contains_iff] at ha
  rw [busWriteList_read p _ _ _ _ h, if_neg fun hin => ha ⟨hin.1, hin.2.1⟩]

/-- An access goes to memory exactly when it shares no byte with the register block (10_state.md R22). -/
theorem accessTarget_memory_iff (p : Platform) (addr : Word) (n : Nat) :
    accessTarget p addr n = .memory ↔ (accessRegion addr n).meets p.block = false := by
  unfold accessTarget
  split_ifs <;> simp_all

/-- The bus can write every byte of an access to memory that the platform answers. -/
theorem access_busWritable (p : Platform) (faults : List Region) (addr : Word) (n a : Nat)
    (ht : accessTarget p addr n = .memory) (hm : memoryAnswers p faults (accessRegion addr n) = true)
    (ha : (accessRegion addr n).contains a = true) : busWritable p a := by
  obtain ⟨hlow, hhigh⟩ := (Region.contains_iff _ _).1 ha
  have hfits : (accessRegion addr n).size = 0 ∨
      (accessRegion addr n).start + (accessRegion addr n).size ≤ p.addrLimit :=
    (inRange_iff _ _).1 (Bool.and_eq_true_iff.1 hm).1
  refine ⟨?_, by omega⟩
  by_contra hblock
  have hmeets : (accessRegion addr n).meets p.block = true :=
    (Region.meets_iff _ _).2 ⟨a, ha, Bool.eq_true_of_not_eq_false hblock⟩
  simp [(accessTarget_memory_iff p addr n).1 ht] at hmeets

/-! The steps of a host on memory. -/

/-- The step of a host whose store the platform answers is that store. -/
theorem hostStep_store (s : State) (n : Nat) (h : HostAgent) (addr : Word) (bytes : List Byte) (rest : List HostOp)
    (hh : s.hosts[n]? = some h) (ho : h.ops = .write addr bytes :: rest)
    (ht : accessTarget s.platform addr bytes.length = .memory)
    (hm : memoryAnswers s.platform s.platform.writeFaults (accessRegion addr bytes.length) = true) :
    s.hostStep n = (s.hostStore addr bytes).putHost n { h with ops := rest } := by
  simp [State.hostStep, hh, ho, State.hostWrite, ht, hm, HostAgent.advance]

/-- The step of a host whose load the platform answers takes the bytes and one draw. -/
theorem hostStep_load (s : State) (n : Nat) (h : HostAgent) (addr : Word) (width : Nat) (rest : List HostOp)
    (hh : s.hosts[n]? = some h) (ho : h.ops = .read addr width :: rest)
    (ht : accessTarget s.platform addr width = .memory)
    (hm : memoryAnswers s.platform s.platform.readFaults (accessRegion addr width) = true) :
    s.hostStep n =
      { s with hosts := s.hosts.set n ⟨rest, s.hostBytes addr.toNat width, h.errors⟩, draws := s.draws + 1 } := by
  simp [State.hostStep, hh, ho, State.hostRead, ht, hm, HostAgent.advance, HostAgent.receive, State.putHost]

@[simp] theorem hostBytes_length (s : State) (a n : Nat) : (s.hostBytes a n).length = n := by simp [State.hostBytes]

theorem hostBytes_getElem? (s : State) (a n k : Nat) (hk : k < n) :
    (s.hostBytes a n)[k]? = some (s.hostByte (a + k) k) := by
  simp [State.hostBytes, hk]

/-- In the WR of a running DERIVE a host sees a byte the engine may have written already (70_reset_and_hazards.md R339). -/
theorem hostByte_inFlight (s : State) (a k : Nat) (hf : s.deriveInFlight = true)
    (hw : (writeRange s.latch).contains a = true) : s.hostByte a k = s.inFlightByte (a - s.latch.dst.toNat) := by
  simp [State.hostByte, hf, hw]

/-- Elsewhere, but for device bytes, a host sees the byte stored. -/
theorem hostByte_stored (s : State) (a k : Nat)
    (hout : ¬ (s.deriveInFlight = true ∧ (writeRange s.latch).contains a = true)) (hv : s.platform.volatile a = false) :
    s.hostByte a k = Memory.read s.mem a := by
  rw [State.hostByte, if_neg (by rwa [Bool.and_eq_true]), if_neg (by simp [hv])]

/-- Under the duty the byte in flight is the old one or the one the scalar derivation gives (R339, 44 R224). -/
theorem inFlightByte_cases (s : State) (i : Nat) (hd : s.dutyBroken = false) :
    s.inFlightByte i = Memory.read s.mem (s.latch.dst.toNat + i) ∨
    s.inFlightByte i = secretAt (deriveSecretScalar s.latch.seed) i := by
  rw [State.inFlightByte, if_neg (by simp [hd]), State.oldOrDerived, State.derivedSecret, deriveSecret_eq_scalar]
  split_ifs
  · exact .inr rfl
  · exact .inl rfl

/-- Settles O60: a store is the bus write of its bytes, all of which the bus can write; a load returns the bytes the host
sees, each in flight or stored. -/
theorem hostAccessesMoveTheirBytes : Obligations.HostAccessesMoveTheirBytes := by
  refine ⟨fun s n h addr bytes rest hwf hh ho ht hm a => ?_, fun s n h addr width rest hh ho ht hm =>
    ⟨_, hostStep_load s n h addr width rest hh ho ht hm, hostBytes_length _ _ _, fun k hk => ?_⟩⟩
  · rw [hostStep_store s n h addr bytes rest hh ho ht hm, State.putHost_mem, State.hostStore_mem]
    by_cases ha : (accessRegion addr bytes.length).contains a = true
    · obtain ⟨hlow, hhigh⟩ := (Region.contains_iff _ _).1 ha
      have hbus := access_busWritable _ _ _ _ a ht hm ha
      rw [busWriteList_read _ _ _ _ _ hwf, if_pos ⟨hlow, hhigh, hbus.1, hbus.2⟩, if_pos ha]
    · rw [busWriteList_read_outside _ _ _ _ _ hwf ha, if_neg ha]
  · rw [hostBytes_getElem? s _ _ k hk]
    refine ⟨fun hf hw hd => ?_, fun hout hv => ?_⟩
    · have hback : s.latch.dst.toNat + (addr.toNat + k - s.latch.dst.toNat) = addr.toNat + k :=
        Nat.add_sub_cancel' ((Region.contains_iff _ _).1 hw).1
      have hbyte := inFlightByte_cases s (addr.toNat + k - s.latch.dst.toNat) hd
      rw [hback] at hbyte
      rw [hostByte_inFlight s _ k hf hw]
      exact hbyte.imp (congrArg some) (congrArg some)
    · rw [hostByte_stored s _ k hout hv]

/-! The host's duty. -/

/-- A store breaks the duty exactly when it shares a byte with a declared range of the running command (R88). -/
theorem breaksDuty_iff (s : State) (i : Instr) (q : Region) (hb : s.phase = .busy) (hf : s.fetch = .command i) :
    s.breaksDuty q = true ↔ ∃ r ∈ declaredRanges s.latch i, ∃ a, r.contains a = true ∧ q.contains a = true := by
  simp only [State.breaksDuty, hb, hf, beq_self_eq_true, Bool.true_and, List.any_eq_true, Region.meets_iff,
    and_comm (a := q.contains _ = true)]

/-- Settles O56: the flag after the store is whether that store breaks the duty. -/
theorem storeIntoDeclaredRangeBreaksTheDuty : Obligations.StoreIntoDeclaredRangeBreaksTheDuty := by
  intro s n h addr bytes rest i hb hf hd hh ho ht hm
  rw [hostStep_store s n h addr bytes rest hh ho ht hm, State.putHost_dutyBroken, State.hostStore_dutyBroken, hd,
    Bool.false_or]
  exact breaksDuty_iff s i _ hb hf

/-- After a broken duty the results delivered are the free values of the draw, whatever the code (R89). -/
theorem State.deliver_broken (s : State) (c : ErrorCode) (lo hi : Word) (h : s.dutyBroken = true) :
    s.deliver c lo hi = { s with resultLo := Config.freeWord s.draws 0, resultHi := Config.freeWord s.draws 1 } := by
  simp [State.deliver, h]

/-- After a broken duty a DERIVE leaves free bytes in its WR, whatever the code (R89). -/
theorem State.deriveWrites_broken (s : State) (c : ErrorCode) (h : s.dutyBroken = true) :
    s.deriveWrites c = s.writeWindow (Config.freeByte s.draws) := by
  simp [State.deriveWrites, h]

/-- The completion of a command whose duty was broken. -/
theorem exec_broken (i : Instr) (s : State) (h : s.dutyBroken = true) :
    exec i s = .next (State.complete { s with
      mem := memoryAfter i s
      resultLo := Config.freeWord s.draws 0
      resultHi := Config.freeWord s.draws 1 } (s.errorCode i)) := by
  cases i with
  | hash64 => simp only [exec, execHash64, State.deliver_broken s _ _ _ h, memoryAfter]
  | hash128 => simp only [exec, execHash128, State.deliver_broken s _ _ _ h, memoryAfter]
  | hash128s => simp only [exec, execHash128s, State.deliver_broken s _ _ _ h, memoryAfter]
  | derive =>
    have hw : (s.writeWindow (Config.freeByte s.draws)).dutyBroken = true := h
    simp only [exec, execDerive, memoryAfter, State.deriveWrites_broken s _ h, State.deliver_broken _ _ _ _ hw]
    rfl

/-- Settles O58: the completion takes its code from the checks, its results and the bytes of WR from the draw. -/
theorem brokenDutyKeepsTheCodeAndFreesTheResults : Obligations.BrokenDutyKeepsTheCodeAndFreesTheResults := by
  refine fun i s h hwf => ⟨_, exec_broken i s h, rfl, rfl, rfl, rfl, ?_⟩
  rintro rfl k hk hblock hlimit
  rw [State.complete_mem, memoryAfter, State.deriveWrites_broken s _ h, State.writeWindow_mem,
    busWriteBytes_read _ _ _ _ _ _ hwf, if_pos ⟨by omega, by simpa [secretDefaultSize] using hk, hblock, hlimit⟩,
    Nat.add_sub_cancel_left]

/-! Which bytes a step changes. -/

theorem deriveInFlight_iff (s : State) :
    s.deriveInFlight = true ↔
      s.phase = .busy ∧ s.fetch = .command .derive ∧ inRange s.platform (writeRange s.latch) = true := by
  simp [State.deriveInFlight, and_assoc]

/-- A byte that a host's turn changes is one that its host stores at. -/
theorem hostTurn_changes (s : State) (n a : Nat) (hn : s.nextTurn = .host n) (hwf : Memory.wf s.mem)
    (hne : Memory.read (s.popTurn.hostStep n).mem a ≠ Memory.read s.mem a) : s.HostStoresAt a := by
  rcases hostStep_cases s.popTurn n with
    ⟨_, _, ht⟩ | ⟨_, _, bytes, _, r, _, -, -, -, ht⟩ | ⟨h, addr, bytes, rest, _, hh, ho, htarget, -, ht⟩
  · exact absurd (by rw [ht]; rfl) hne
  · obtain ⟨-, -, -, hmem⟩ := writeReg_agents s.popTurn r (busWord bytes)
    exact absurd (by rw [ht]; exact congrArg (Memory.read · a) hmem) hne
  · refine ⟨n, h, addr, bytes, rest, hn, hh, ho, htarget, by_contra fun hout => hne ?_⟩
    rw [ht]
    exact busWriteList_read_outside s.platform addr bytes s.mem a hwf hout

/-- A byte that a completion changes is in the WR of a DERIVE. -/
theorem exec_changes (i : Instr) (s t : State) (a : Nat) (he : exec i s = .next t) (hwf : Memory.wf s.mem)
    (hne : Memory.read t.mem a ≠ Memory.read s.mem a) : i = .derive ∧ (writeRange s.latch).contains a = true := by
  obtain ⟨lo, hi, rfl, -⟩ := exec_inversion i s t he
  by_contra hout
  refine hne (memoryAfter_outside i s hwf a fun hi => ?_)
  simpa [hi] using hout

/-- A byte that a reset changes is in the WR of the DERIVE it aborts. -/
theorem resetEngine_changes (s : State) (a : Nat) (hwf : Memory.wf s.mem)
    (hne : Memory.read s.resetEngine.mem a ≠ Memory.read s.mem a) :
    s.deriveInFlight = true ∧ (writeRange s.latch).contains a = true := by
  rcases abortedMemory_read s a hwf with hsame | ⟨hf, hw, -⟩
  · exact absurd hsame hne
  · exact ⟨hf, hw⟩

/-- Settles O34, over what each turn can change: a turn of the engine while IDLE and an illegal word leave memory. -/
theorem memoryChangesOnlyByStoreDeriveOrAbort : Obligations.MemoryChangesOnlyByStoreDeriveOrAbort := by
  intro s t a hwf hstep hne
  rcases step_inversion s t hstep with
    ⟨n, hn, rfl⟩ | ⟨hn, rfl⟩ | ⟨-, -, rfl⟩ | ⟨-, -, -, rfl⟩ | ⟨hn, hb, i, hf, he⟩
  · exact .inl (hostTurn_changes s n a hn hwf hne)
  · obtain ⟨hflight, hw⟩ := resetEngine_changes s.popTurn a hwf hne
    obtain ⟨hb, hf, -⟩ := (deriveInFlight_iff _).1 hflight
    exact .inr ⟨hb, hf, hw, .inr hn⟩
  · exact absurd rfl hne
  · exact absurd rfl hne
  · obtain ⟨rfl, hw⟩ := exec_changes i s.popTurn t a he hwf hne
    exact .inr ⟨hb, hf, hw, .inl hn⟩

/-! The digest over device bytes. -/

/-- The buffer the engine sees: a free value at each device or register byte of the range, else the byte stored (R71, R80). -/
theorem rangeByte_eq (s : State) (r : Region) (free : Nat → Byte) (k : Nat) :
    s.rangeByte r free k =
      if k < r.size ∧ s.platform.volatile (r.start + k) = true then free k else Memory.read s.mem (r.start + k) := by
  simp [State.rangeByte]

/-- Settles O57: without an error and under the duty a hash command delivers the digest of the buffers the engine sees. -/
theorem deviceBytesAreFreeInTheDigest : Obligations.DeviceBytesAreFreeInTheDigest := by
  intro s i inp sec hd hi hcode hinp hsec
  obtain rfl : s.input = inp := funext fun k => (rangeByte_eq s _ _ k).trans (hinp k).symm
  obtain rfl : s.callerSecret = sec := funext fun k => (rangeByte_eq s _ _ k).trans (hsec k).symm
  cases i with
  | hash64 =>
    simp only [exec, execHash64, hcode, State.deliver_success s _ _ hd]
    exact ⟨_, rfl, rfl, rfl, fun _ => ⟨rfl, rfl⟩, nofun, nofun⟩
  | hash128 =>
    simp only [exec, execHash128, hcode, State.deliver_success s _ _ hd, h128_eq_scalar s.latch.backend]
    exact ⟨_, rfl, rfl, rfl, nofun, fun _ => rfl, nofun⟩
  | hash128s =>
    simp only [exec, execHash128s, hcode, State.deliver_success s _ _ hd, h128_eq_scalar s.latch.backend]
    exact ⟨_, rfl, rfl, rfl, nofun, nofun, fun _ => rfl⟩
  | derive => exact absurd rfl hi

end Sys2Proof.Machine
end

section
/-! PROOF. The encoding (30_encoding.md): bytes, words and fields of a command say the same thing, which words are illegal
(R100-R105), which latched operands a completion reads (R104), and a round of `wait` (R108). -/

namespace Sys2Proof.Machine

open Sys2Proof

/-! Bytes and words (10_state.md R22). -/

/-- The value on the bus is the one whose base-256 digits are the bytes. -/
theorem busValue_eq_ofDigits (bs : List Byte) : busValue bs = Nat.ofDigits 256 (bs.map BitVec.toNat) := by
  induction bs with
  | nil => rfl
  | cons b rest ih => simp [busValue, Nat.ofDigits_cons, ih]

theorem byteDigit_lt (bs : List Byte) : ∀ d ∈ bs.map BitVec.toNat, d < 256 := by
  intro d hd
  obtain ⟨b, -, rfl⟩ := List.mem_map.1 hd
  exact b.isLt

theorem busValue_lt (bs : List Byte) : busValue bs < 256 ^ bs.length := by
  simpa [busValue_eq_ofDigits] using Nat.ofDigits_lt_base_pow_length (by decide) (byteDigit_lt bs)

/-- Byte sequences of one length and one value are equal. -/
theorem busValue_inj {bs cs : List Byte} (hlen : bs.length = cs.length) (h : busValue bs = busValue cs) : bs = cs := by
  rw [busValue_eq_ofDigits, busValue_eq_ofDigits] at h
  have hdigits := Nat.ofDigits_inj_of_len_eq (by decide) (by simpa using hlen) (byteDigit_lt bs) (byteDigit_lt cs) h
  exact List.map_injective_iff.2 (fun _ _ => BitVec.eq_of_toNat_eq) hdigits

theorem busWord_toNat {bs : List Byte} (h : bs.length = 8) : (busWord bs).toNat = busValue bs := by
  have hlt := busValue_lt bs
  rw [h] at hlt
  exact Nat.mod_eq_of_lt hlt

/-- Eight bytes are the bus bytes of their word: the other direction of `busWord_busBytes`. -/
theorem busBytes_busWord {bs : List Byte} (h : bs.length = 8) : busBytes (busWord bs) = bs := by
  refine busValue_inj ((busBytes_length _).trans h.symm) ?_
  rw [← busWord_toNat (busBytes_length _), busWord_busBytes, busWord_toNat h]

/-! Words and commands (R101, R102). -/

theorem decode_encode (i : Instr) : decode (encode i) = .command i := by
  cases i <;> decide

/-- The decoder answers a command for its word only. -/
theorem decode_eq_command_iff (w : Word) (i : Instr) : decode w = .command i ↔ w = encode i := by
  refine ⟨fun h => ?_, fun h => h ▸ decode_encode i⟩
  unfold decode at h
  split_ifs at h with h1 h2 h3 h4
  · cases h; exact h1
  · cases h; exact h2
  · cases h; exact h3
  · cases h; exact h4

@[simp] theorem decodeBytes_busBytes (w : Word) : decodeBytes (busBytes w) = decode w := by
  simp [decodeBytes]

/-- Settles O2: eight bytes and their word determine each other, and a word that decodes to a command is its encoding. -/
theorem bytesDecodeOnlyToTheirCommand : Obligations.BytesDecodeOnlyToTheirCommand := by
  refine fun bs i => ⟨fun h => ?_, ?_⟩
  · unfold decodeBytes at h
    split_ifs at h with hlen
    rw [encodeBytes, ← (decode_eq_command_iff _ i).1 h, busBytes_busWord hlen]
  · rintro rfl
    rw [encodeBytes, decodeBytes_busBytes, decode_encode]

/-- Settles O1: the model's own lemma for each row of the table. -/
theorem commandWordsDecodeAsTabled : Obligations.CommandWordsDecodeAsTabled :=
  ⟨decode_hash64_word, decode_hash128_word, decode_hash128s_word, decode_derive_word⟩

/-! Words and fields (R100, R103). -/

/-- A word is put together again from its fields. -/
theorem wordOf_fieldsOf (w : Word) : wordOf (fieldsOf w) = w := by
  refine BitVec.eq_of_getLsbD_eq fun i hi => ?_
  simp only [wordOf, fieldsOf, BitVec.zeroExtend, BitVec.getLsbD_or, BitVec.getLsbD_shiftLeft, BitVec.getLsbD_setWidth,
    BitVec.getLsbD_extractLsb']
  rcases (show i < 4 ∨ i = 4 ∨ 5 ≤ i by omega) with hop | rfl | hrsvd
  · simp [hi, hop, show i < 5 by omega]
  · simp
  · simp [hi, show ¬ i < 4 by omega, show ¬ i < 5 by omega, show ¬ i - 4 < 1 by omega, show i - 5 < 59 by omega,
      show 5 + (i - 5) = i by omega, show i - 4 < 64 by omega, show i - 5 < 64 by omega]

theorem fieldsOf_encode (i : Instr) : fieldsOf (encode i) = i.fields := by
  cases i with
  | hash64 => exact Laws.Fields.hash64.2
  | hash128 => exact Laws.Fields.hash128.2
  | hash128s => exact Laws.Fields.hash128s.2
  | derive => exact Laws.Fields.derive.2

theorem eq_encode_iff (w : Word) (i : Instr) : w = encode i ↔ fieldsOf w = i.fields := by
  refine ⟨fun h => h ▸ fieldsOf_encode i, fun h => ?_⟩
  rw [← wordOf_fieldsOf w, h, encode]

/-- The legal fields are those of the four commands (R101). -/
theorem wellFormed_iff (f : CmdFields) : f.wellFormed = true ↔ ∃ i : Instr, f = i.fields := by
  constructor
  · obtain ⟨op, sec, rsvd⟩ := f
    intro h
    obtain rfl : rsvd = 0#59 := by simp_all [CmdFields.wellFormed, CmdFields.rsvdOk]
    have legal : ∀ (op : BitVec 4) (sec : BitVec 1), (CmdFields.mk op sec 0#59).wellFormed = true →
        CmdFields.mk op sec 0#59 ∈ [Instr.hash64, .hash128, .hash128s, .derive].map Instr.fields := by decide
    obtain ⟨i, -, hi⟩ := List.mem_map.1 (legal op sec h)
    exact ⟨i, hi.symm⟩
  · rintro ⟨i, rfl⟩
    cases i <;> rfl

/-- The fields R103 calls illegal. -/
theorem wellFormed_eq_false_iff (f : CmdFields) :
    f.wellFormed = false ↔
      f.op = 0#4 ∨ 4 ≤ f.op.toNat ∨ (f.sec = 1#1 ∧ f.op ≠ 2#4) ∨ f.rsvd ≠ 0#59 := by
  obtain ⟨op, sec, rsvd⟩ := f
  have opSec : ∀ (op : BitVec 4) (sec : BitVec 1),
      ((op == 1#4 || op == 2#4 || op == 3#4) && (sec == 0#1 || op == 2#4)) = false ↔
        op = 0#4 ∨ 4 ≤ op.toNat ∨ (sec = 1#1 ∧ op ≠ 2#4) := by decide
  by_cases hr : rsvd = 0#59
  · simpa [CmdFields.wellFormed, CmdFields.rsvdOk, CmdFields.opOk, CmdFields.secOk, hr] using opSec op sec
  · simp [CmdFields.wellFormed, CmdFields.rsvdOk, hr]

theorem decode_illegal_iff (w : Word) : (∃ r, decode w = .illegal r) ↔ ∀ i, decode w ≠ .command i := by
  cases decode w with
  | command i => simp
  | illegal r => simp

/-- A word is illegal exactly when its fields are. -/
theorem decode_illegal_iff_fields (w : Word) : (∃ r, decode w = .illegal r) ↔ (fieldsOf w).wellFormed = false := by
  rw [decode_illegal_iff, ← Bool.not_eq_true, wellFormed_iff, not_exists]
  exact forall_congr' fun i => not_congr ((decode_eq_command_iff w i).trans (eq_encode_iff w i))

/-! Illegal words on the engine (R103). -/

theorem writeReg_cmd_idle (s : State) (w : Word) (h : s.phase = .idle) : s.writeReg .cmd w = s.issue w := by
  simp [State.writeReg, State.writeCmd, h]

/-- The engine's turn on a latched illegal word completes it with ILLEGAL_CMD (46_commands.md R267). -/
theorem engineTurn_illegal (s : State) (r : IllegalReason) (hb : s.phase = .busy) (hf : s.fetch = .illegal r) :
    engineTurn s = .next (s.complete .illegalCmd) := by
  simp [engineTurn, hb, hf, completeDecoded, execIllegal]

/-- Settles O3: the illegal words by their fields, and the two steps of such a word. -/
theorem illegalWordsIssueAndRaiseIllegalCmd : Obligations.IllegalWordsIssueAndRaiseIllegalCmd :=
  ⟨fun w => (decode_illegal_iff_fields w).trans (wellFormed_eq_false_iff _),
    (decode_illegal_iff_fields _).2 rfl,
    fun s w r hp hd => ⟨writeReg_cmd_idle s w hp, rfl, rfl, _, engineTurn_illegal _ r rfl hd, rfl, rfl⟩⟩

/-! Latched operands (R104). -/

/-- Delivering and completing read the latched backend only. -/
theorem deliver_complete_withLatch (s : State) (l : Latch) (c : ErrorCode) (lo hi : Word)
    (hb : l.backend = s.latch.backend) :
    (State.deliver { s with latch := l } c lo hi).complete c = (s.deliver c lo hi).complete c := by
  unfold State.deliver
  split_ifs <;> simp [State.complete, State.syncIrq, hb]

/-- The bytes a WRITE_FAULT leaves in WR follow from the latched backend, seed and destination. -/
theorem faultedByte_withLatch (s : State) (l : Latch) (hb : l.backend = s.latch.backend) (hs : l.seed = s.latch.seed)
    (hd : l.dst = s.latch.dst) : State.faultedByte { s with latch := l } = s.faultedByte := by
  funext i
  simp [State.faultedByte, State.oldOrDerived, State.derivedSecret, hb, hs, hd]

/-- So does all that a DERIVE writes. -/
theorem deriveWrites_withLatch (s : State) (l : Latch) (c : ErrorCode) (hb : l.backend = s.latch.backend)
    (hs : l.seed = s.latch.seed) (hd : l.dst = s.latch.dst) :
    State.deriveWrites { s with latch := l } c = { s.deriveWrites c with latch := l } := by
  unfold State.deriveWrites
  split_ifs
  · simp [State.writeWindow, hd]
  · cases c <;> simp [State.writeWindow, faultedByte_withLatch s l hb hs hd, State.derivedSecret, hb, hs, hd]

theorem deriveWrites_complete_withLatch (s : State) (l : Latch) (c : ErrorCode) (lo hi : Word)
    (hb : l.backend = s.latch.backend) (hs : l.seed = s.latch.seed) (hd : l.dst = s.latch.dst) :
    ((State.deriveWrites { s with latch := l } c).deliver c lo hi).complete c =
      ((s.deriveWrites c).deliver c lo hi).complete c := by
  rw [deriveWrites_withLatch s l c hb hs hd]
  exact deliver_complete_withLatch _ l c lo hi (hb.trans (congrArg Latch.backend (s.deriveWrites_latch c).symm))

/-- Settles O52: the checks and buffers of a command are those of the operands it reads, and so is the rest of its
completion. -/
theorem unreadOperandsHaveNoEffect : Obligations.UnreadOperandsHaveNoEffect :=
  fun s _ _ _ _ => ⟨congrArg Host.Outcome.next (deliver_complete_withLatch s _ _ _ _ rfl),
    congrArg Host.Outcome.next (deliver_complete_withLatch s _ _ _ _ rfl),
    congrArg Host.Outcome.next (deliver_complete_withLatch s _ _ _ _ rfl),
    congrArg Host.Outcome.next (deriveWrites_complete_withLatch s _ _ _ _ rfl rfl rfl)⟩

/-! A round of `wait` (R108). -/

/-- Settles O59: the two phases of the poll. -/
theorem waitEndsExactlyWhenIdle : Obligations.WaitEndsExactlyWhenIdle := by
  intro s n h rest hh ho
  simp only [State.hostStep, hh, ho, State.hostPoll]
  cases s.phase with
  | idle => simp [HostAgent.advance, HostAgent.receive, ho, State.readReg]
  | busy => simp [HostAgent.receive, ho, State.readReg]

end Sys2Proof.Machine
end

section
/-! PROOF. The primitives (40_primitives.md R120-R131): a word and its bytes determine each other at every width, reversing
the bytes is an involution, and the widening products lose nothing. -/

namespace Sys2Proof.Machine

open Sys2Proof

/-! Values of byte sequences. -/

theorem valueLE_lt (b : Nat → Byte) (i n : Nat) : valueLE b i n < 256 ^ n := by
  induction n generalizing i with
  | zero => exact Nat.one_pos
  | succ n ih =>
    have hbyte := (b i).isLt
    have hrest := ih (i + 1)
    rw [valueLE, pow_succ']
    omega

/-- The value of two adjacent ranges of bytes. -/
theorem valueLE_add (b : Nat → Byte) (i m n : Nat) :
    valueLE b i (m + n) = valueLE b i m + 256 ^ m * valueLE b (i + m) n := by
  induction m generalizing i with
  | zero => simp [valueLE]
  | succ m ih =>
    rw [Nat.add_right_comm m 1 n, valueLE, valueLE, ih, pow_succ', Nat.add_assoc i 1 m, Nat.add_comm 1 m]
    ring

/-- The bytes of a range are the base-256 digits of its value. -/
theorem valueLE_digit (b : Nat → Byte) (i : Nat) {n k : Nat} (hk : k < n) :
    valueLE b i n / 256 ^ k % 256 = (b (i + k)).toNat := by
  obtain ⟨r, rfl⟩ := Nat.exists_eq_add_of_lt hk
  have hlow := valueLE_lt b i k
  have hbyte := (b (i + k)).isLt
  rw [Nat.add_assoc, valueLE_add, Nat.add_mul_div_left _ _ (by positivity), Nat.div_eq_of_lt hlow, valueLE]
  omega

/-- A big-endian value is the little-endian one of the bytes in the other order (R123). -/
theorem valueBE_eq_valueLE {b c : Nat → Byte} {i n : Nat} (h : ∀ k, k < n → b (i + k) = c (n - 1 - k)) :
    valueBE b i n = valueLE c 0 n := by
  induction n generalizing i with
  | zero => rfl
  | succ n ih =>
    have hrest : valueBE b (i + 1) n = valueLE c 0 n := ih fun k hk => by
      rw [Nat.add_right_comm, Nat.add_assoc, h (k + 1) (by omega)]
      congr 1
      omega
    have hfirst : b i = c n := h 0 n.succ_pos
    rw [valueBE, valueLE_add, hrest, hfirst, valueLE, valueLE]
    simp only [Nat.zero_add, Nat.mul_zero, Nat.add_zero]
    ring

/-! Words of `n` bytes: `le32`, `encLE32` and `swap32` at `n = 4`, `le64`, `encLE64` and `swap64` at `n = 8`. -/

/-- The word of `n` bytes from offset `i`, the lowest first (R120, R121). -/
def wordLE (n : Nat) (b : Nat → Byte) (i : Nat) : BitVec (8 * n) := BitVec.ofNat (8 * n) (valueLE b i n)

/-- Byte `k` of a word (R122). -/
def wordByte {n : Nat} (x : BitVec (8 * n)) (k : Nat) : Byte := x.extractLsb' (8 * k) 8

/-- The bytes of a word read in the other order (R124, R125). -/
def byteSwap {n : Nat} (x : BitVec (8 * n)) : BitVec (8 * n) := BitVec.ofNat (8 * n) (valueBE (wordByte x) 0 n)

theorem le32_eq_wordLE : le32 = wordLE 4 := rfl

theorem le64_eq_wordLE : le64 = wordLE 8 := rfl

theorem encLE64_eq_wordByte : encLE64 = wordByte (n := 8) := rfl

theorem swap32_eq_byteSwap : swap32 = byteSwap (n := 4) := rfl

theorem swap64_eq_byteSwap : swap64 = byteSwap (n := 8) := rfl

theorem wordLE_toNat (n : Nat) (b : Nat → Byte) (i : Nat) : (wordLE n b i).toNat = valueLE b i n := by
  have hlt : valueLE b i n < 2 ^ (8 * n) := (valueLE_lt b i n).trans_eq (pow_mul 2 8 n).symm
  rw [wordLE, BitVec.toNat_ofNat, Nat.mod_eq_of_lt hlt]

theorem wordByte_wordLE {n k : Nat} (hk : k < n) (b : Nat → Byte) (i : Nat) : wordByte (wordLE n b i) k = b (i + k) := by
  apply BitVec.eq_of_toNat_eq
  rw [wordByte, BitVec.extractLsb'_toNat, wordLE_toNat, Nat.shiftRight_eq_div_pow, pow_mul]
  exact valueLE_digit b i hk

/-- Words with the same bytes are equal. -/
theorem eq_of_wordByte_eq {n : Nat} {x y : BitVec (8 * n)} (h : ∀ k, k < n → wordByte x k = wordByte y k) : x = y := by
  refine BitVec.eq_of_getLsbD_eq fun j hj => ?_
  have hbit := congrArg (BitVec.getLsbD · (j % 8)) (h (j / 8) (by omega))
  have hmod : j % 8 < 8 := Nat.mod_lt j (by decide)
  simpa only [wordByte, BitVec.getLsbD_extractLsb', hmod, Nat.div_add_mod, decide_true, Bool.true_and] using hbit

theorem wordLE_wordByte {n : Nat} (x : BitVec (8 * n)) : wordLE n (wordByte x) 0 = x :=
  eq_of_wordByte_eq fun k hk => (wordByte_wordLE hk _ 0).trans (by rw [Nat.zero_add])

theorem byteSwap_eq_wordLE {n : Nat} (x : BitVec (8 * n)) : byteSwap x = wordLE n (fun k => wordByte x (n - 1 - k)) 0 := by
  refine congrArg (BitVec.ofNat _) (valueBE_eq_valueLE fun k hk => ?_)
  congr 1
  omega

theorem wordByte_byteSwap {n k : Nat} (hk : k < n) (x : BitVec (8 * n)) :
    wordByte (byteSwap x) k = wordByte x (n - 1 - k) := by
  rw [byteSwap_eq_wordLE, wordByte_wordLE hk, Nat.zero_add]

theorem byteSwap_byteSwap {n : Nat} (x : BitVec (8 * n)) : byteSwap (byteSwap x) = x := by
  refine eq_of_wordByte_eq fun k hk => ?_
  rw [wordByte_byteSwap hk, wordByte_byteSwap (by omega)]
  congr 1
  omega

/-- The first bytes of a word make up its low part. -/
theorem wordLE_setWidth (b : Nat → Byte) (i m n : Nat) : (wordLE (m + n) b i).setWidth (8 * m) = wordLE m b i := by
  apply BitVec.eq_of_toNat_eq
  rw [BitVec.toNat_setWidth, wordLE_toNat, wordLE_toNat, valueLE_add, pow_mul]
  exact (Nat.add_mul_mod_self_left _ _ _).trans (Nat.mod_eq_of_lt (valueLE_lt b i m))

/-- Settles O53: the codecs and swaps are the 4-byte and 8-byte ones of `wordLE`, `wordByte` and `byteSwap`. -/
theorem endianCodecsAreConsistent : Obligations.EndianCodecsAreConsistent := by
  unfold Obligations.EndianCodecsAreConsistent
  rw [le32_eq_wordLE, le64_eq_wordLE, encLE64_eq_wordByte, swap32_eq_byteSwap, swap64_eq_byteSwap]
  exact ⟨wordLE_wordByte (n := 8), fun b i => wordLE_setWidth b i 4 4, byteSwap_byteSwap (n := 8), byteSwap_byteSwap (n := 4),
    fun x k hk => wordByte_byteSwap hk x⟩

/-! Multiplies and fold. -/

/-- A product at twice the width of its factors does not wrap. -/
theorem zeroExtend_mul_toNat {w : Nat} (a b : BitVec w) :
    (a.zeroExtend (w + w) * b.zeroExtend (w + w)).toNat = a.toNat * b.toNat := by
  have hlt : a.toNat * b.toNat < 2 ^ (w + w) := by
    rw [pow_add]
    exact Nat.mul_lt_mul'' a.isLt b.isLt
  rw [BitVec.toNat_mul, BitVec.toNat_setWidth_of_le (by omega), BitVec.toNat_setWidth_of_le (by omega),
    Nat.mod_eq_of_lt hlt]

theorem mul32to64_toNat (a b : Half) : (mul32to64 a b).toNat = a.toNat * b.toNat := zeroExtend_mul_toNat a b

theorem product128_toNat (a b : Word) : (product128 a b).toNat = a.toNat * b.toNat := zeroExtend_mul_toNat a b

theorem product128_comm (a b : Word) : product128 a b = product128 b a := BitVec.mul_comm _ _

/-- The two words of the product hold all of it. -/
theorem mul64to128_toNat (a b : Word) :
    (mul64to128 a b).1.toNat + 2 ^ 64 * (mul64to128 a b).2.toNat = a.toNat * b.toNat := by
  have hhigh : (product128 a b).toNat / 2 ^ 64 < 2 ^ 64 := Nat.div_lt_of_lt_mul (product128 a b).isLt
  simp only [mul64to128, BitVec.extractLsb'_toNat, Nat.shiftRight_eq_div_pow, pow_zero, Nat.div_one]
  rw [Nat.mod_eq_of_lt hhigh, Nat.mod_add_div, product128_toNat]

theorem fold64_comm (a b : Word) : fold64 a b = fold64 b a := by
  simp only [fold64, mul64to128, product128_comm a b]

theorem fold64_zero_left (x : Word) : fold64 0#64 x = 0#64 := by
  have hproduct : product128 0#64 x = 0#128 := BitVec.eq_of_toNat_eq (by simp [product128_toNat])
  simp [fold64, mul64to128, hproduct]

/-- Settles O54: no product wraps at twice the width, and the fold is a function of the product. -/
theorem wideningProductsAreExact : Obligations.WideningProductsAreExact :=
  ⟨mul32to64_toNat, mul64to128_toNat, fold64_comm,
    fun x => ⟨fold64_zero_left x, (fold64_comm x _).trans (fold64_zero_left x)⟩⟩

end Sys2Proof.Machine
end

section
/-! PROOF. The alternate forms of the 9 to 16 byte branch (41_h128_short.md R154). -/

namespace Sys2Proof.Machine

open Sys2Proof

theorem highMask_bit (i : Nat) (hi : i < 64) : (0xFFFFFFFF00000000#64).getLsbD i = !decide (i < 32) := by
  have h : ∀ k : Fin 64, (0xFFFFFFFF00000000#64).getLsbD k = !decide (k.val < 32) := by decide
  exact h ⟨i, hi⟩

theorem lowHalf_bit (x : Word) (i : Nat) (hi : i < 64) :
    (zext64 (trunc32 x)).getLsbD i = (decide (i < 32) && x.getLsbD i) := by
  simp [zext64, trunc32, hi]

/-- The bits above the low half and the low half share no bit, so their sum is the word. -/
theorem highHalf_add_lowHalf (x : Word) : (x &&& 0xFFFFFFFF00000000#64) + zext64 (trunc32 x) = x := by
  have hdisjoint : (x &&& 0xFFFFFFFF00000000#64) &&& zext64 (trunc32 x) = 0#64 :=
    BitVec.eq_of_getLsbD_eq fun i hi => by
      rw [BitVec.getLsbD_and, BitVec.getLsbD_and, highMask_bit i hi, lowHalf_bit x i hi]
      cases decide (i < 32) <;> simp
  rw [BitVec.add_eq_or_of_and_eq_zero _ _ hdisjoint]
  refine BitVec.eq_of_getLsbD_eq fun i hi => ?_
  rw [BitVec.getLsbD_or, BitVec.getLsbD_and, highMask_bit i hi, lowHalf_bit x i hi]
  cases decide (i < 32) <;> simp

/-- A widening product by `p - 1` lacks one times the first factor. -/
theorem mul32to64_pred (a : Half) {p : Half} (hp : p ≠ 0#32) : zext64 a + mul32to64 a (p - 1#32) = mul32to64 a p := by
  have hsucc : zext64 p = 1#64 + zext64 (p - 1#32) := by
    simp only [zext64, BitVec.truncate_eq_setWidth]
    bv_omega
  rw [mul32to64, mul32to64, hsucc, mul_add, BitVec.mul_one]

/-- The two forms of the `mhi` line, for any nonzero factor: the low half of `x` moves from the sum into the product. -/
theorem add_mul32to64_pred (m x : Word) {p : Half} (hp : p ≠ 0#32) :
    m + x + mul32to64 (trunc32 x) (p - 1#32) = m + (x &&& 0xFFFFFFFF00000000#64) + mul32to64 (trunc32 x) p :=
  calc m + x + mul32to64 (trunc32 x) (p - 1#32)
      = m + ((x &&& 0xFFFFFFFF00000000#64) + zext64 (trunc32 x)) + mul32to64 (trunc32 x) (p - 1#32) := by
        rw [highHalf_add_lowHalf]
    _ = m + (x &&& 0xFFFFFFFF00000000#64) + mul32to64 (trunc32 x) p := by
        rw [← mul32to64_pred (trunc32 x) hp]
        simp only [BitVec.add_assoc]

theorem append_toNat (a b : Word) : (a ++ b).toNat = 2 ^ 64 * a.toNat + b.toNat := by
  rw [BitVec.toNat_append, ← Nat.shiftLeft_add_eq_or_of_lt b.isLt, Nat.shiftLeft_eq, Nat.mul_comm]

/-- A 128 by 64 product modulo `2^128`: the exact product of the low word, to whose high word the high word's product is
added. -/
theorem append_mul_zeroExtend (hi lo p : Word) :
    ((mul64to128 lo p).2 + hi * p) ++ (mul64to128 lo p).1 = (hi ++ lo) * p.zeroExtend 128 := by
  have hexact := mul64to128_toNat lo p
  have hlow := (mul64to128 lo p).1.isLt
  apply BitVec.eq_of_toNat_eq
  rw [append_toNat, BitVec.toNat_add, BitVec.toNat_mul, BitVec.toNat_mul, append_toNat,
    BitVec.toNat_setWidth_of_le (by decide), Nat.add_mul, Nat.mul_assoc, ← hexact]
  omega

/-- Settles O55: neither identity depends on the prime, beyond `PRIME32_2` not being 0. -/
theorem nineToSixteenAlternateFormsAgree : Obligations.NineToSixteenAlternateFormsAgree :=
  ⟨fun m x => add_mul32to64_pred m x (by decide), fun lo hi => append_mul_zeroExtend hi lo prime64_2⟩

end Sys2Proof.Machine
end

section
/-! PROOF. XXH3-128 reads only inside its buffers (41_h128_short.md R156, 43_h128_long.md R200): each function of the model
gives the same value on two inputs that agree below the length and two secrets that agree below theirs. -/

namespace Sys2Proof.Machine

open Sys2Proof

/-! Up to 240 bytes, where every branch reads at most the first 136 bytes of the secret. -/

section UpTo240

variable {inp inp' sec sec' : Nat → Byte} {len : Nat} (hinp : ∀ k, k < len → inp k = inp' k)
  (hsec : ∀ k, k < 136 → sec k = sec' k) (seed : Word)

include hsec in
theorem h128Empty_congr : h128Empty sec seed = h128Empty sec' seed := by
  simp (disch := omega) only [h128Empty, le64_congr sec sec' _ 136 hsec]

include hinp in
theorem combined1to3_congr (hlen : 0 < len) : combined1to3 inp len = combined1to3 inp' len := by
  rw [combined1to3, hinp 0 hlen, hinp (len / 2) (by omega), hinp (len - 1) (by omega), combined1to3]

include hinp hsec

theorem h128Of1to3_congr (hlen : 0 < len) : h128Of1to3 inp len sec seed = h128Of1to3 inp' len sec' seed := by
  simp (disch := omega) only [h128Of1to3, combined1to3_congr hinp hlen, le32_congr sec sec' _ 136 hsec]

theorem h128Of4to8_congr (hlen : 4 ≤ len) : h128Of4to8 inp len sec seed = h128Of4to8 inp' len sec' seed := by
  simp (disch := omega) only [h128Of4to8, product4to8, le32_congr inp inp' _ len hinp, le64_congr sec sec' _ 136 hsec]

theorem h128Of9to16_congr (hlen : 8 < len) : h128Of9to16 inp len sec seed = h128Of9to16 inp' len sec' seed := by
  simp (disch := omega) only [h128Of9to16, le64_congr inp inp' _ len hinp, le64_congr sec sec' _ 136 hsec]

theorem mix16B_congr {i j : Nat} (hi : i + 16 ≤ len) (hj : j + 16 ≤ 136) :
    mix16B inp i sec j seed = mix16B inp' i sec' j seed := by
  simp (disch := omega) only [mix16B, le64_congr inp inp' _ len hinp, le64_congr sec sec' _ 136 hsec]

theorem mix32B_congr {i1 i2 j : Nat} (hi1 : i1 + 16 ≤ len) (hi2 : i2 + 16 ≤ len) (hj : j + 32 ≤ 136)
    (acc : Word × Word) : mix32B acc inp i1 i2 sec j seed = mix32B acc inp' i1 i2 sec' j seed := by
  simp (disch := omega) only [mix32B, mix16B_congr hinp hsec, le64_congr inp inp' _ len hinp]

/-- Each round of R173 reads inside the input where its condition on the length holds. -/
theorem h128Of17to128_congr (hlen : 16 < len) : h128Of17to128 inp len sec seed = h128Of17to128 inp' len sec' seed := by
  simp (disch := omega) only [h128Of17to128, mix32B_congr hinp hsec]

theorem midRounds_congr (n i off : Nat) (hi : 32 * (i + n) ≤ len) (hoff : off + 32 * n ≤ 136) (acc : Word × Word) :
    midRounds inp sec seed n i off acc = midRounds inp' sec' seed n i off acc := by
  induction n generalizing i off acc with
  | zero => rfl
  | succ n ih =>
    rw [midRounds, midRounds, mix32B_congr hinp hsec seed (by omega) (by omega) (by omega),
      ih (i + 1) (off + 32) (by omega) (by omega)]

/-- The four rounds of the first part, the at most three of the second, and the last 32 bytes at secret offset 103. -/
theorem h128Of129to240_congr (hlen : 128 < len) (hmax : len ≤ 240) :
    h128Of129to240 inp len sec seed = h128Of129to240 inp' len sec' seed := by
  have hfirst := midRounds_congr hinp hsec seed 4 0 0 (by omega) (by omega)
  have hrest := midRounds_congr hinp hsec seed (len / 32 - 4) 4 3 (by omega) (by omega)
  have hlast := mix32B_congr hinp hsec (0#64 - seed) (i1 := len - 16) (i2 := len - 32) (j := 136 - 17 - 16)
    (by omega) (by omega) (by omega)
  simp only [h128Of129to240, midsizeStartoffset, secretSizeMin, midsizeLastoffset, hfirst, hrest, hlast]

/-- The branches of R150 up to 240 bytes, each in its band. -/
theorem h128_congr_of_le (b : Backend) (secLen secLen' : Nat) (hmax : len ≤ 240) :
    h128 b inp len sec secLen seed = h128 b inp' len sec' secLen' seed := by
  rw [h128, h128, if_pos hmax, if_pos hmax]
  refine ite_congr rfl (fun _ => ?_) fun hshort => ?_
  · refine ite_congr rfl (h128Of9to16_congr hinp hsec seed) fun _ => ?_
    refine ite_congr rfl (h128Of4to8_congr hinp hsec seed) fun _ => ?_
    exact ite_congr rfl (h128Of1to3_congr hinp hsec seed) fun _ => h128Empty_congr hsec seed
  · refine ite_congr rfl (fun _ => ?_) fun hmiddle => ?_
    · exact h128Of17to128_congr hinp hsec seed (Nat.lt_of_not_le hshort)
    · exact h128Of129to240_congr hinp hsec seed (Nat.lt_of_not_le hmiddle) hmax

end UpTo240

/-! The geometry of the long path (R190). -/

/-- The stripes of a block step through the secret and leave its last 64 bytes to the scramble. -/
theorem nbStripesPerBlock_fits {secLen : Nat} (hS : 64 ≤ secLen) : 8 * nbStripesPerBlock secLen + 64 ≤ secLen := by
  rw [nbStripesPerBlock, stripeLen, secretConsumeRate]
  omega

theorem nine_le_nbStripesPerBlock {secLen : Nat} (hS : 136 ≤ secLen) : 9 ≤ nbStripesPerBlock secLen := by
  rw [nbStripesPerBlock, stripeLen, secretConsumeRate]
  omega

/-- The full blocks and the stripes of the partial one end before the last byte of the input. -/
theorem blocks_and_stripes_lt_len {len : Nat} (secLen : Nat) (hlen : 0 < len) :
    nbBlocks len secLen * blockLen secLen + 64 * nbStripesLast len secLen < len := by
  have hfull : blockLen secLen * nbBlocks len secLen ≤ len - 1 := Nat.mul_div_le _ _
  have hlast := Nat.mul_div_le (len - 1 - blockLen secLen * nbBlocks len secLen) 64
  rw [Nat.mul_comm (nbBlocks len secLen), nbStripesLast, stripeLen]
  omega

/-- The stripes of the partial block are fewer than those of a full one. -/
theorem nbStripesLast_lt (len : Nat) {secLen : Nat} (hS : 136 ≤ secLen) :
    nbStripesLast len secLen < nbStripesPerBlock secLen := by
  have hstripes := nine_le_nbStripesPerBlock hS
  have hblock : 0 < blockLen secLen := Nat.mul_pos (by decide) (by omega)
  have hrest : len - 1 - blockLen secLen * nbBlocks len secLen < blockLen secLen :=
    Nat.mod_eq_sub_mul_div.symm.trans_lt (Nat.mod_lt _ hblock)
  exact Nat.div_lt_of_lt_mul hrest

/-! More than 240 bytes. A digest is the same on every backend (`h128_eq_scalar`), so the scalar functions are enough. -/

section Long

variable {inp inp' sec sec' : Nat → Byte} {len secLen : Nat} (hinp : ∀ k, k < len → inp k = inp' k)
  (hsec : ∀ k, k < secLen → sec k = sec' k)

section Secret

include hsec

theorem scrambleScalar_congr {q : Nat} (hq : q + 64 ≤ secLen) (acc : Acc) :
    scrambleScalar acc sec q = scrambleScalar acc sec' q := by
  have hlane : scrambleLane sec q = scrambleLane sec' q := by
    funext a l
    rw [scrambleLane, le64_congr sec sec' _ secLen hsec (by omega), scrambleLane]
  rw [scrambleScalar, hlane, scrambleScalar]

theorem mergeAccs_congr {q : Nat} (hq : q + 64 ≤ secLen) (acc : Acc) (start : Word) :
    mergeAccs acc sec q start = mergeAccs acc sec' q start := by
  simp (disch := omega) only [mergeAccs, mix2Accs, le64_congr sec sec' _ secLen hsec]

end Secret

include hinp hsec

theorem accumulate512Scalar_congr {p q : Nat} (hp : p + 64 ≤ len) (hq : q + 64 ≤ secLen) (acc : Acc) :
    accumulate512Scalar acc inp p sec q = accumulate512Scalar acc inp' p sec' q := by
  have hlane : accumulateLane inp p sec q = accumulateLane inp' p sec' q := by
    funext a l
    rw [accumulateLane, le64_congr inp inp' _ len hinp (by omega), le64_congr sec sec' _ secLen hsec (by omega),
      accumulateLane]
  rw [accumulate512Scalar, hlane, accumulate512Scalar]

/-- Stripe `k` of a run reads the input from `p + 64 k` and the secret from `q + 8 k`. -/
theorem accumulateFrom_congr (n p q : Nat) (hp : p + 64 * n ≤ len) (hq : q + 8 * n + 56 ≤ secLen) (acc : Acc) :
    accumulateFrom .scalar inp sec n p q acc = accumulateFrom .scalar inp' sec' n p q acc := by
  induction n generalizing p q acc with
  | zero => rfl
  | succ n ih =>
    rw [accumulateFrom, accumulateFrom, accumulate512_eq_scalar,
      accumulate512Scalar_congr hinp hsec (by omega) (by omega), stripeLen, secretConsumeRate, ih _ _ (by omega) (by omega)]

theorem fullBlocks_congr (hS : 64 ≤ secLen) (n p : Nat) (hp : p + n * blockLen secLen ≤ len) (acc : Acc) :
    fullBlocks .scalar inp sec secLen n p acc = fullBlocks .scalar inp' sec' secLen n p acc := by
  have hsecret := nbStripesPerBlock_fits hS
  have hblock : 64 * nbStripesPerBlock secLen = blockLen secLen := rfl
  induction n generalizing p acc with
  | zero => rfl
  | succ n ih =>
    rw [Nat.succ_mul] at hp
    rw [fullBlocks, fullBlocks, accumulate, accumulateFrom_congr hinp hsec _ p 0 (by omega) (by omega),
      scramble_eq_scalar, stripeLen, scrambleScalar_congr hsec (by omega), ih _ (by omega), accumulate]

theorem longLoop_congr (hS : 136 ≤ secLen) (hlen : 240 < len) :
    longLoop .scalar inp len sec secLen = longLoop .scalar inp' len sec' secLen := by
  have hinput := blocks_and_stripes_lt_len secLen (Nat.zero_lt_of_lt hlen)
  have hlast := nbStripesLast_lt len hS
  have hsecret : 8 * nbStripesPerBlock secLen + 64 ≤ secLen := nbStripesPerBlock_fits (by omega)
  simp only [longLoop, accumulate, accumulate512_eq_scalar, stripeLen, secretLastaccStart]
  rw [fullBlocks_congr hinp hsec (by omega) _ _ (by omega),
    accumulateFrom_congr hinp hsec _ _ _ (by omega) (by omega), accumulate512Scalar_congr hinp hsec (by omega) (by omega)]

theorem hashLong128_congr (hS : 136 ≤ secLen) (hlen : 240 < len) :
    hashLong128 .scalar inp len sec secLen = hashLong128 .scalar inp' len sec' secLen := by
  simp only [hashLong128, longLoop_congr hinp hsec hS hlen, stripeLen, secretMergeaccsStart]
  rw [mergeAccs_congr hsec (by omega), mergeAccs_congr hsec (by omega)]

/-- With a nonzero seed the secret is the derived one on both sides (R199). -/
theorem h128Long_congr (hS : 136 ≤ secLen) (hlen : 240 < len) (seed : Word) :
    h128Long .scalar inp len sec secLen seed = h128Long .scalar inp' len sec' secLen seed :=
  ite_congr rfl (fun _ => hashLong128_congr hinp hsec hS hlen)
    fun _ => hashLong128_congr hinp (fun _ _ => rfl) (by decide) hlen

end Long

theorem h128_eq_h128Long (b : Backend) (inp : Nat → Byte) {len : Nat} (sec : Nat → Byte) (secLen : Nat) (seed : Word)
    (hlen : 240 < len) : h128 b inp len sec secLen seed = h128Long b inp len sec secLen seed := by
  rw [h128, if_neg (by omega), if_neg (by omega), if_neg (by omega)]

/-- Settles O46: by the bands of R150, up to 240 bytes from the first 136 bytes of the secret, above from all of it. -/
theorem digestDependsOnlyOnItsBuffers : Obligations.DigestDependsOnlyOnItsBuffers := by
  intro b inp inp' sec sec' len secLen secLen' seed hinp
  refine ⟨fun hS hsec => ?_, fun hmax hsec => h128_congr_of_le hinp hsec seed b secLen secLen' hmax⟩
  rcases Nat.lt_or_ge 240 len with hlong | hmax
  · rw [h128_eq_scalar, h128_eq_h128Long _ _ _ _ _ hlong, h128_eq_h128Long _ _ _ _ _ hlong]
    exact h128Long_congr hinp hsec hS hlong seed
  · exact h128_congr_of_le hinp (fun k hk => hsec k (Nat.lt_of_lt_of_le hk hS)) seed b secLen secLen hmax

end Sys2Proof.Machine
end

section
/-! PROOF. The long path (43_h128_long.md): how much of the input the geometry of R190 covers, and the secret a nonzero seed
selects (R199). -/

namespace Sys2Proof.Machine

open Sys2Proof

/-- The stripes cover the partial block but for at most 63 bytes, and the last byte of the input is one more. -/
theorem len_le_blocks_and_stripes_add (len secLen : Nat) :
    len ≤ nbBlocks len secLen * blockLen secLen + 64 * nbStripesLast len secLen + 64 := by
  have hlast := Nat.lt_mul_div_succ (len - 1 - blockLen secLen * nbBlocks len secLen) (b := 64) (by decide)
  rw [Nat.mul_comm (nbBlocks len secLen), nbStripesLast, stripeLen]
  omega

/-- Settles O48: the bounds of the geometry, with R190's block of at least 9 stripes of 64 bytes. -/
theorem longPathGeometryIsBounded : Obligations.LongPathGeometryIsBounded := by
  intro len secLen hS hlen
  have hstripes := nine_le_nbStripesPerBlock hS
  have hblock : 576 ≤ blockLen secLen := Nat.mul_le_mul_left 64 hstripes
  exact ⟨hstripes, hblock, Nat.le_sub_one_of_lt (nbStripesLast_lt len hS),
    blocks_and_stripes_lt_len secLen (Nat.zero_lt_of_lt hlen), len_le_blocks_and_stripes_add len secLen⟩

theorem h128_long_unseeded (b : Backend) (inp : Nat → Byte) {len : Nat} (sec : Nat → Byte) (secLen : Nat)
    (hlen : 240 < len) : h128 b inp len sec secLen 0#64 = hashLong128 b inp len sec secLen := by
  rw [h128_eq_h128Long b inp sec secLen _ hlen, h128Long, if_pos rfl]

theorem h128_long_seeded (b : Backend) (inp : Nat → Byte) {len : Nat} (sec : Nat → Byte) (secLen : Nat) {seed : Word}
    (hlen : 240 < len) (hseed : seed ≠ 0#64) : h128 b inp len sec secLen seed =
      hashLong128 b inp len (secretAt (deriveSecretScalar seed)) secretDefaultSize := by
  rw [h128_eq_h128Long b inp sec secLen seed hlen, h128Long, if_neg hseed, deriveSecret_eq_scalar]

/-- Settles O49: every caller's secret gives the same hash of the derived secret, which the unseeded path computes from it. -/
theorem seededLongPathIgnoresTheCallersSecret : Obligations.SeededLongPathIgnoresTheCallersSecret := by
  intro b inp len sec sec' secLen secLen' seed hlen hseed
  rw [h128_long_seeded b inp sec secLen hlen hseed, h128_long_seeded b inp sec' secLen' hlen hseed]
  exact ⟨rfl, (h128_long_unseeded b inp _ secretDefaultSize hlen).symm⟩

end Sys2Proof.Machine
end

section
/-! PROOF. The secret and the backends (44_secret_and_backends.md R221-R228): which backend a command runs on and reports,
that a completion shows it in BACKEND_USED alone, and the secret derived from seed 0. -/

namespace Sys2Proof.Machine

open Sys2Proof

/-! The vector forms (R225-R228). -/

/-- Settles O41: both vector forms are accumulates of a backend, and every backend's is the scalar one. -/
theorem vectorAccumulateEqualsScalar : Obligations.VectorAccumulateEqualsScalar := by
  intro acc inp p sec q
  have hscalar (b : Backend) : accumulate512 b acc inp p sec q = accumulate512Scalar acc inp p sec q := by
    rw [accumulate512_eq_scalar]
  exact ⟨hscalar .wide, hscalar .narrow⟩

/-- Settles O42: the identity of the two products, and the scrambles of the vector backends, which rest on it. -/
theorem vectorScrambleEqualsScalar : Obligations.VectorScrambleEqualsScalar := by
  refine ⟨mul_zext64, fun acc sec q => ?_⟩
  have hscalar (b : Backend) : scramble b acc sec q = scrambleScalar acc sec q := by rw [scramble_eq_scalar]
  exact ⟨hscalar .wide, hscalar .narrow⟩

/-- Settles O43: lane by lane, a group adds the seed as R220 does. -/
theorem vectorDerivationEqualsScalar : Obligations.VectorDerivationEqualsScalar :=
  fun seed => ⟨deriveSecretWide_eq seed, deriveSecretNarrow_eq seed⟩

/-! The backend of a command (R223). -/

/-- STATUS.BACKEND_USED reads as bits 17:16 (10_state.md R26): ERRCODE ends below them. -/
theorem statusWord_backendUsed (busy : Bool) (s : StatusReg) :
    (statusWord busy s).extractLsb' 16 2 = backendUsedBits s.backendUsed := by
  refine BitVec.eq_of_getLsbD_eq fun i hi => ?_
  have hflags : 16 + i ≠ 0 ∧ 16 + i ≠ 1 ∧ 16 + i ≠ 2 ∧ 16 + i ≠ 3 := by omega
  have herr : (errorByte s.errcode).getLsbD (16 + i - 8) = false := BitVec.getLsbD_of_ge _ _ (by omega)
  simp [statusWord_bit _ _ (16 + i) (by omega), hflags, herr, hi]

/-- Every completion of a command reports the latched backend. -/
theorem exec_backendUsed (i : Instr) (s : State) :
    ∃ t, exec i s = .next t ∧ t.status.backendUsed = some s.latch.backend := by
  obtain ⟨lo, hi, he, -⟩ := exec_completes i s
  exact ⟨_, he, rfl⟩

/-- Settles O9: the table, the bits of CTRL and STATUS, the latch at issue, and every completion. -/
theorem backendIsResolvedAtIssueAndReported : Obligations.BackendIsResolvedAtIssueAndReported := by
  refine ⟨fun p => ⟨rfl, rfl, rfl, rfl⟩, effectiveBackend_present, fun s w => rfl, fun s => ?_, fun s w => ⟨rfl, rfl⟩,
    fun s i => exec_backendUsed i s, fun s => ⟨_, rfl, rfl⟩⟩
  have hread : (s.readReg .status).extractLsb' 16 2 = backendUsedBits s.status.backendUsed := statusWord_backendUsed _ _
  rw [hread]
  exact ⟨congrArg backendUsedBits, congrArg backendUsedBits, congrArg backendUsedBits, congrArg backendUsedBits⟩

/-! A completion on another backend (R224). -/

/-- Completing shows the backend in BACKEND_USED alone. -/
theorem complete_withBackend (s : State) (b : Backend) (c : ErrorCode) :
    (s.withBackend b).complete c = (s.complete c).markUsed b := rfl

theorem withBackend_dutyBroken (s : State) (b : Backend) : (s.withBackend b).dutyBroken = s.dutyBroken := rfl

/-- What is delivered does not look at the backend. -/
theorem deliver_withBackend (s : State) (b : Backend) (c : ErrorCode) (lo hi : Word) :
    (s.withBackend b).deliver c lo hi = (s.deliver c lo hi).withBackend b := by
  unfold State.deliver
  rw [withBackend_dutyBroken]
  split_ifs <;> rfl

theorem deliver_complete_withBackend (s : State) (b : Backend) (c : ErrorCode) (lo hi : Word) :
    ((s.withBackend b).deliver c lo hi).complete c = ((s.deliver c lo hi).complete c).markUsed b := by
  rw [deliver_withBackend, complete_withBackend]

theorem derivedSecret_eq_scalar (s : State) : s.derivedSecret = deriveSecretScalar s.latch.seed :=
  congrFun (deriveSecret_eq_scalar s.latch.backend) s.latch.seed

/-- A DERIVE writes the same bytes on every backend, with any code. -/
theorem deriveWrites_withBackend (s : State) (b : Backend) (c : ErrorCode) :
    (s.withBackend b).deriveWrites c = (s.deriveWrites c).withBackend b := by
  have hsecret : (s.withBackend b).derivedSecret = s.derivedSecret :=
    (derivedSecret_eq_scalar _).trans (derivedSecret_eq_scalar s).symm
  have hfaulted : (s.withBackend b).faultedByte = s.faultedByte := by
    funext i
    simp only [State.faultedByte, State.oldOrDerived, hsecret]
    rfl
  unfold State.deriveWrites
  rw [withBackend_dutyBroken, hsecret, hfaulted]
  split_ifs
  · rfl
  · cases c <;> rfl

/-- A command on another backend completes as before but for BACKEND_USED. -/
theorem exec_withBackend (i : Instr) (s t : State) (b : Backend) (h : exec i s = .next t) :
    exec i (s.withBackend b) = .next (t.markUsed b) := by
  cases i with
  | hash64 =>
    cases h
    exact congrArg Host.Outcome.next (deliver_complete_withBackend s b _ _ _)
  | hash128 =>
    rw [exec, execHash128, h128_eq_scalar] at h ⊢
    cases h
    exact congrArg Host.Outcome.next (deliver_complete_withBackend s b _ _ _)
  | hash128s =>
    rw [exec, execHash128s, h128_eq_scalar] at h ⊢
    cases h
    exact congrArg Host.Outcome.next (deliver_complete_withBackend s b _ _ _)
  | derive =>
    cases h
    rw [exec, execDerive, deriveWrites_withBackend]
    exact congrArg Host.Outcome.next (deliver_complete_withBackend _ b _ _ _)

/-- Settles O44: the completion on the backend already latched, with another BACKEND_USED. -/
theorem backendsGiveTheSameCompletion : Obligations.BackendsGiveTheSameCompletion := by
  refine ⟨fun i s => ?_, fun s => ⟨_, fun b => congrArg Host.Outcome.next (complete_withBackend s b _)⟩,
    fun b => ⟨accumulate512_eq_scalar b, scramble_eq_scalar b, deriveSecret_eq_scalar b⟩⟩
  obtain ⟨lo, hi, he, -⟩ := exec_completes i s
  exact ⟨_, fun b => exec_withBackend i s _ b he⟩

/-! The derived secret, byte by byte (R220, R221). -/

theorem secretAt_eq_getElem (cs : SecretBuf) {k : Nat} (hk : k < 192) : secretAt cs k = cs[k] := by
  simp [secretAt, Vector.getD, hk]

/-- Byte `k` of a derived secret is a byte of lane `k / 8`. -/
theorem secretAt_deriveSecret (b : Backend) (seed : Word) {k : Nat} (hk : k < 192) :
    secretAt (deriveSecret b seed) k = encLE64 (derivedLane seed (k / 8)) (k % 8) := by
  rw [deriveSecret_eq_scalar, secretAt_eq_getElem _ hk, deriveSecretScalar, Vector.getElem_ofFn]

/-- Seed 0 changes no lane of the default secret. -/
theorem derivedLane_zero (j : Nat) : derivedLane 0#64 j = le64 kSecret (8 * j) := by
  simp [derivedLane]

/-- Seed 0 derives the default secret (R221): the bytes of its words are its own. -/
theorem secretAt_deriveSecret_zero (b : Backend) {k : Nat} (hk : k < 192) :
    secretAt (deriveSecret b 0#64) k = kSecret k := by
  rw [secretAt_deriveSecret b _ hk, derivedLane_zero, encLE64_eq_wordByte, le64_eq_wordLE,
    wordByte_wordLE (Nat.mod_lt k (by decide)), Nat.div_add_mod]

/-- A DERIVE whose write range is ready leaves the derived secret there, but for the bytes that are registers (R266). -/
theorem exec_derive_read (s t : State) (he : exec .derive s = .next t) (hwf : Memory.wf s.mem) (hw : s.WindowReady)
    {k : Nat} (hk : k < 192) (hblock : s.platform.block.contains (s.latch.dst.toNat + k) = false) :
    Memory.read t.mem (s.latch.dst.toNat + k) = secretAt s.derivedSecret k := by
  obtain ⟨lo, hi, rfl, -⟩ := exec_inversion _ _ _ he
  have hfits : s.latch.dst.toNat + 192 ≤ s.platform.addrLimit := hw.fits.resolve_left (Nat.succ_ne_zero 191)
  have hwrites : s.deriveWrites .none = s.writeWindow (secretAt s.derivedSecret) := by
    simp [State.deriveWrites, hw.duty]
  rw [State.complete_mem, memoryAfter, errorCode_derive s hw, hwrites, State.writeWindow_mem,
    busWriteBytes_read _ _ _ _ _ _ hwf, if_pos ⟨by omega, Nat.add_lt_add_left hk _, hblock, by omega⟩,
    Nat.add_sub_cancel_left]

/-- Settles O45: seed 0 byte by byte, the backends through the scalar one, and the write range of a DERIVE. -/
theorem derivationWithSeedZeroIsTheDefaultSecret : Obligations.DerivationWithSeedZeroIsTheDefaultSecret := by
  refine ⟨fun b k hk => secretAt_deriveSecret_zero b hk, fun b c seed => ?_, fun b inp len sec secLen => if_pos rfl,
    fun s hwf hw hseed => ?_⟩
  · rw [deriveSecret_eq_scalar b, deriveSecret_eq_scalar c]
  · obtain ⟨lo, hi, he, -⟩ := exec_completes .derive s
    refine ⟨_, he, fun k hk hblock => ?_⟩
    rw [exec_derive_read s _ he hwf hw hk hblock, State.derivedSecret, hseed, secretAt_deriveSecret_zero _ hk]

end Sys2Proof.Machine
end

section
/-! PROOF. XXH64 (45_hash64.md R240-R251): each function of the model gives the same value on two inputs that agree below the
length, and the empty input is neither checked nor read. -/

namespace Sys2Proof.Machine

open Sys2Proof

/-! The loops of R243 and R246 are one loop over different steps. Its step is a variable, which the kernel cannot unfold: on
the equation lemmas of the loops themselves, whose steps are words of arithmetic, the kernel's recursion goes too deep. -/

/-- `n` steps of `width` bytes each from offset `p`. -/
def stepLoop {α : Type} (width : Nat) (step : Nat → α → α) : Nat → Nat → α → α
  | 0, _, x => x
  | n + 1, p, x => stepLoop width step n (p + width) (step p x)

theorem bulkLoop_eq_stepLoop (inp : Nat → Byte) : bulkLoop inp = stepLoop 32 (bulkRound inp) := by
  delta bulkLoop stepLoop
  rfl

theorem tailLoop8_eq_stepLoop (inp : Nat → Byte) : tailLoop8 inp = stepLoop 8 (tailStep8 inp) := by
  delta tailLoop8 stepLoop
  rfl

theorem tailLoop1_eq_stepLoop (inp : Nat → Byte) : tailLoop1 inp = stepLoop 1 (tailStep1 inp) := by
  delta tailLoop1 stepLoop
  rfl

/-- Two steps that agree inside the length make loops that agree inside it. -/
theorem stepLoop_congr {α : Type} {width len : Nat} {step step' : Nat → α → α}
    (hstep : ∀ p, p + width ≤ len → step p = step' p) (n p : Nat) (hp : p + width * n ≤ len) (x : α) :
    stepLoop width step n p x = stepLoop width step' n p x := by
  induction n generalizing p x with
  | zero => rfl
  | succ n ih =>
    rw [Nat.mul_succ] at hp
    rw [stepLoop, stepLoop, hstep p (by omega), ih _ (by omega)]

/-! Inputs that agree below the length. -/

section Agree

variable {inp inp' : Nat → Byte} {len : Nat} (hinp : ∀ k, k < len → inp k = inp' k)

include hinp

theorem bulkRound_congr (p : Nat) (hp : p + 32 ≤ len) : bulkRound inp p = bulkRound inp' p := by
  funext v
  simp (disch := omega) only [bulkRound, le64_congr inp inp' _ len hinp]

theorem tailStep8_congr (p : Nat) (hp : p + 8 ≤ len) : tailStep8 inp p = tailStep8 inp' p := by
  funext h
  rw [tailStep8, le64_congr inp inp' p len hinp hp, tailStep8]

theorem tailStep4_congr {p : Nat} (hp : p + 4 ≤ len) (h : Word) : tailStep4 inp p h = tailStep4 inp' p h := by
  rw [tailStep4, le32_congr inp inp' p len hinp hp, tailStep4]

theorem tailStep1_congr (p : Nat) (hp : p + 1 ≤ len) : tailStep1 inp p = tailStep1 inp' p := by
  funext h
  rw [tailStep1, hinp p hp, tailStep1]

theorem bulkLoop_congr (n p : Nat) (hp : p + 32 * n ≤ len) (v : Lanes64) : bulkLoop inp n p v = bulkLoop inp' n p v := by
  rw [bulkLoop_eq_stepLoop, bulkLoop_eq_stepLoop, stepLoop_congr (bulkRound_congr hinp) n p hp]

theorem tailLoop8_congr (n p : Nat) (hp : p + 8 * n ≤ len) (h : Word) : tailLoop8 inp n p h = tailLoop8 inp' n p h := by
  rw [tailLoop8_eq_stepLoop, tailLoop8_eq_stepLoop, stepLoop_congr (tailStep8_congr hinp) n p hp]

theorem tailLoop1_congr (n p : Nat) (hp : p + n ≤ len) (h : Word) : tailLoop1 inp n p h = tailLoop1 inp' n p h := by
  rw [tailLoop1_eq_stepLoop, tailLoop1_eq_stepLoop, stepLoop_congr (tailStep1_congr hinp) n p (by omega)]

theorem bulk64_congr (seed : Word) : bulk64 inp len seed = bulk64 inp' len seed := by
  rw [bulk64, bulkLoop_congr hinp _ _ (by omega), bulk64]

/-- The remaining `8a + 4b + c` bytes end at the length, so every step of R246 reads below it. -/
theorem tail64_congr {p : Nat} (hp : p ≤ len) (h : Word) : tail64 h inp len p = tail64 h inp' len p := by
  simp only [tail64, tailLoop8_congr hinp _ p (show p + 8 * ((len - p) / 8) ≤ len by omega)]
  split_ifs with hfour
  · rw [tailStep4_congr hinp (by omega), tailLoop1_congr hinp _ _ (by omega)]
  · rw [tailLoop1_congr hinp _ _ (by omega)]

/-- The bulk rounds consume `32 * (len / 32)` bytes, and the tail starts there. -/
theorem h64_congr (seed : Word) : h64 inp len seed = h64 inp' len seed := by
  have hbulk : (bulk64 inp' len seed).2 ≤ len := Nat.mul_div_le len 32
  rw [h64, h64, bulk64_congr hinp]
  split_ifs
  · rw [tail64_congr hinp hbulk]
  · rw [tail64_congr hinp (Nat.zero_le len)]

end Agree

/-- Settles O47: the bulk rounds and the 8-byte, 4-byte and single-byte steps all read below the length. -/
theorem xxh64DependsOnlyOnItsInput : Obligations.Xxh64DependsOnlyOnItsInput :=
  fun _ _ _ seed hinp => h64_congr hinp seed

/-! The empty input (R248). -/

/-- Nothing remains at offset 0 of an empty input, so the tail takes no step. -/
theorem tail64_empty (h : Word) (inp : Nat → Byte) : tail64 h inp 0 0 = h := rfl

theorem h64_empty (inp : Nat → Byte) (seed : Word) : h64 inp 0 seed = avalanche64 (seed + prime64_5) := by
  rw [h64, if_neg (by decide), tail64_empty, lenWord, BitVec.add_zero]

/-- An empty input passes every check wherever SRC_ADDR points. -/
theorem State.InputReady.of_empty {s : State} (hd : s.dutyBroken = false) (hlen : s.latch.len = 0#64) : s.InputReady := by
  have hsize : (inputRange s.latch).size = 0 := congrArg BitVec.toNat hlen
  obtain ⟨hfits, hreadable, -, hplain⟩ := empty_range s.platform _ hsize
  exact ⟨hd, hfits, hreadable, hplain⟩

/-- The document's vector for the empty input. -/
theorem avalanche64_prime64_5 : avalanche64 (0#64 + prime64_5) = 0xEF46DB3751D8E999#64 := by
  rw [avalanche64]
  decide

/-- Settles O22: no check fails on an empty input, and its digest uses the seed alone. -/
theorem emptyInputIsHashedWithoutMemory : Obligations.EmptyInputIsHashedWithoutMemory := by
  refine ⟨fun s hd hlen => ?_, avalanche64_prime64_5⟩
  have hcode : s.errorCode .hash64 = .none := errorCode_hash64 s (.of_empty hd hlen)
  have hdigest : h64 s.input s.latch.len.toNat s.latch.seed = avalanche64 (s.latch.seed + prime64_5) := by
    rw [hlen]
    exact h64_empty _ _
  simp only [exec, execHash64, hcode, State.deliver_success s _ _ hd, hdigest]
  exact ⟨_, rfl, rfl, rfl, rfl⟩

end Sys2Proof.Machine
end

section
/-! PROOF. The step and the issue of a command (46_commands.md R260, R261, R267, R273): what each turn is, that no turn stops,
what a CMD write does in either phase, and the completion of an illegal word. -/

namespace Sys2Proof.Machine

open Sys2Proof

/-! The turns (R273). -/

theorem step_host (s : State) (n : Nat) (hn : s.nextTurn = .host n) : step s = .next (s.popTurn.hostStep n) := by
  rw [step, hn, takeTurn]

theorem step_reset (s : State) (hn : s.nextTurn = .reset) : step s = .next s.popTurn.resetEngine := by
  rw [step, hn, takeTurn]

theorem step_engine (s : State) (hn : s.nextTurn = .engine) : step s = engineTurn s.popTurn := by
  rw [step, hn, takeTurn]

theorem engineTurn_idle (s : State) (hp : s.phase = .idle) : engineTurn s = .next s := by
  simp [engineTurn, hp]

theorem engineTurn_command (s : State) (i : Instr) (hb : s.phase = .busy) (hf : s.fetch = .command i) :
    engineTurn s = exec i s := by
  simp [engineTurn, hb, hf, completeDecoded]

/-- Settles O4: the engine's turn on a latched command, which taking the turn off the schedule does not touch. -/
theorem stepRunsTheLatchedCommand : Obligations.StepRunsTheLatchedCommand := by
  intro s i hn hb hf
  rw [step_engine s hn]
  exact engineTurn_command s.popTurn i hb hf

/-- Settles O5: the turns of a host, of a reset, and of the engine on an illegal word or on none. -/
theorem stepTakesTheTurnOfEveryAgent : Obligations.StepTakesTheTurnOfEveryAgent := by
  refine fun s => ⟨step_host s, step_reset s, fun hn hp => ?_, fun r hn hb hf => ?_⟩
  · rw [step_engine s hn]
    exact engineTurn_idle s.popTurn hp
  · rw [step_engine s hn]
    exact engineTurn_illegal s.popTurn r hb hf

/-- The engine's turn answers in either phase and for every latched word. -/
theorem engineTurn_next (s : State) : ∃ t, engineTurn s = .next t := by
  cases hp : s.phase with
  | idle => exact ⟨_, engineTurn_idle s hp⟩
  | busy =>
    cases hf : s.fetch with
    | command i =>
      obtain ⟨lo, hi, he, -⟩ := exec_completes i s
      exact ⟨_, (engineTurn_command s i hp hf).trans he⟩
    | illegal r => exact ⟨_, engineTurn_illegal s r hp hf⟩

/-- Settles O6, turn by turn: every command completes, and the other turns answer by their definition. -/
theorem noStepStops : Obligations.NoStepStops := by
  intro s
  cases hn : s.nextTurn with
  | engine => rw [step_engine s hn]; exact engineTurn_next _
  | host n => exact ⟨_, step_host s n hn⟩
  | reset => exact ⟨_, step_reset s hn⟩

/-! A CMD write (R260, R261). -/

theorem writeReg_cmd_busy (s : State) (w : Word) (h : s.phase = .busy) : s.writeReg .cmd w = s.overrun := by
  simp [State.writeReg, State.writeCmd, h]

/-- Issue drops IRQ, since it clears DONE (R260). -/
theorem issue_irq_false (s : State) (w : Word) : (s.issue w).irq = false := by
  rw [State.issue_irq, irqLevel, statusIssue, Bool.and_false]

/-- Settles O7: the write is the issue, whose fields are those of R260. -/
theorem issueLatchesOperandsAndSetsBusy : Obligations.IssueLatchesOperandsAndSetsBusy := by
  intro s w hp
  rw [writeReg_cmd_idle s w hp]
  exact ⟨rfl, rfl, rfl, (statusValue_busy _).2 rfl, issue_irq_false s w, rfl, ⟨rfl, rfl, rfl, rfl, rfl, rfl, rfl⟩,
    ⟨rfl, rfl⟩, ⟨rfl, rfl, rfl⟩⟩

/-- Settles O8: a write that is dropped is the overrun of R261. -/
theorem droppedCommandSetsOnlyOverrun : Obligations.DroppedCommandSetsOnlyOverrun :=
  fun s w hb => writeReg_cmd_busy s w hb

/-! Illegal words (R267). -/

/-- STATUS.DONE and STATUS.ERR read as bits 1 and 2 (10_state.md R26). -/
theorem statusWord_done_err (busy : Bool) (s : StatusReg) :
    (statusWord busy s).extractLsb' 1 2 = BitVec.ofBool s.err ++ BitVec.ofBool s.done := by
  refine BitVec.eq_of_getLsbD_eq fun i hi => ?_
  rw [BitVec.getLsbD_extractLsb', statusWord_bit _ _ _ (by omega), BitVec.getLsbD_append (n := 1) (m := 1)]
  obtain rfl | rfl : i = 0 ∨ i = 1 := by omega
  · simp
  · simp

/-- STATUS.ERRCODE reads as bits 15:8 (10_state.md R26): the flags end below them and BACKEND_USED begins above. -/
theorem statusWord_errcode (busy : Bool) (s : StatusReg) :
    (statusWord busy s).extractLsb' 8 8 = errorByte s.errcode := by
  refine BitVec.eq_of_getLsbD_eq fun i hi => ?_
  have hflags : 8 + i ≠ 0 ∧ 8 + i ≠ 1 ∧ 8 + i ≠ 2 ∧ 8 + i ≠ 3 := by omega
  have hused : ¬ 16 ≤ 8 + i := by omega
  simp [statusWord_bit _ _ (8 + i) (by omega), hflags, hused, hi]

/-- Settles O21: the completion with ILLEGAL_CMD, and the word of the rule's example from its issue to STATUS. -/
theorem illegalCommandReportsAndChangesNothing : Obligations.IllegalCommandReportsAndChangesNothing := by
  refine ⟨fun s r hb hf => ⟨_, engineTurn_illegal s r hb hf, rfl, rfl, rfl, rfl, rfl, rfl⟩,
    (decode_illegal_iff_fields _).2 rfl, fun s hp => ?_⟩
  obtain ⟨r, hr⟩ : ∃ r, decode 0x4#64 = .illegal r := (decode_illegal_iff_fields _).2 rfl
  rw [writeReg_cmd_idle s _ hp]
  have hboth : BitVec.ofBool true ++ BitVec.ofBool true = 0b11#2 := by decide
  exact ⟨_, engineTurn_illegal _ r rfl hr, (statusWord_done_err _ _).trans hboth, statusWord_errcode _ _⟩

end Sys2Proof.Machine
end

section
/-! PROOF. The completion of a command (46_commands.md R262-R266, R271): what each command delivers and writes when its checks
pass, what no command changes, and that a completion follows from the latch, the bytes read and the platform's answers. -/

namespace Sys2Proof.Machine

open Sys2Proof

/-! What a command leaves unchanged (R262). -/

/-- Settles O29: a completion keeps these registers and the agents whatever memory and results the command left, and those
are bounded by `memoryAfter_outside` and, for a DERIVE under the duty, by the old results. -/
theorem commandsChangeNoOtherStateOrByte : Obligations.CommandsChangeNoOtherStateOrByte := by
  intro i s t hwf he
  obtain ⟨_, _, rfl, hresults⟩ := exec_inversion i s t he
  exact ⟨⟨rfl, rfl, rfl, rfl, rfl, rfl, rfl⟩, rfl, ⟨rfl, rfl, rfl⟩,
    fun hi a => memoryAfter_outside i s hwf a fun h => absurd h hi,
    fun _ a ha => memoryAfter_outside i s hwf a fun _ => ha, fun hi hd => hresults hd (.inr hi)⟩

/-! Success (R263-R266). -/

/-- What a command that passes its checks leaves in RESULT_LO and RESULT_HI, by the scalar rules. -/
def resultsOnSuccess (i : Instr) (s : State) : Word × Word :=
  match i with
  | .hash64 => (h64 s.input s.latch.len.toNat s.latch.seed, 0#64)
  | .hash128 => h128 .scalar s.input s.latch.len.toNat kSecret 192 s.latch.seed
  | .hash128s => h128 .scalar s.input s.latch.len.toNat s.callerSecret s.latch.seclen.toNat s.latch.seed
  | .derive => (s.resultLo, s.resultHi)

/-- Under the duty a command that passes its checks completes without error, with these results. -/
theorem exec_success (i : Instr) (s : State) (hd : s.dutyBroken = false) (hc : s.errorCode i = .none) :
    exec i s = .next (State.complete { s with
      mem := memoryAfter i s
      resultLo := (resultsOnSuccess i s).1
      resultHi := (resultsOnSuccess i s).2 } .none) := by
  cases i with
  | hash64 => rw [exec, execHash64, hc, State.deliver_success s _ _ hd]; rfl
  | hash128 => rw [exec, execHash128, hc, h128_eq_scalar, State.deliver_success s _ _ hd]; rfl
  | hash128s => rw [exec, execHash128s, hc, h128_eq_scalar, State.deliver_success s _ _ hd]; rfl
  | derive =>
    obtain ⟨lo, hi, he, hr⟩ := exec_completes .derive s
    obtain ⟨rfl, rfl⟩ := hr hd (.inr rfl)
    rw [he, hc]
    rfl

/-- The results in the state such a command answers. -/
theorem exec_success_results (i : Instr) (s t : State) (he : exec i s = .next t) (hd : s.dutyBroken = false)
    (hc : s.errorCode i = .none) : (t.resultLo, t.resultHi) = resultsOnSuccess i s := by
  obtain rfl := Host.Outcome.next.inj (he.symm.trans (exec_success i s hd hc))
  rfl

/-- STATUS after a completion without error, the phase and IRQ (R262). -/
theorem complete_success_flags (s : State) :
    (s.complete .none).status = ⟨true, false, s.status.ovr, .none, some s.latch.backend⟩ ∧
    (s.complete .none).phase = .idle ∧ (s.complete .none).irq = s.ctrl.ie :=
  ⟨rfl, rfl, Bool.and_true _⟩

/-- Settles O17: the engine sees the bytes stored in a usable input, and its checks pass. -/
theorem hash64DeliversXxh64OfTheInput : Obligations.Hash64DeliversXxh64OfTheInput := by
  intro s hin
  have he := exec_success .hash64 s hin.duty (errorCode_hash64 s hin)
  rw [resultsOnSuccess, input_plain s hin] at he
  exact ⟨_, he, rfl, rfl, complete_success_flags _⟩

/-- Settles O18: as for HASH64, with the ROM secret. -/
theorem hash128DeliversDefaultSecretDigest : Obligations.Hash128DeliversDefaultSecretDigest := by
  intro s hin
  have he := exec_success .hash128 s hin.duty (errorCode_hash128 s hin)
  rw [resultsOnSuccess, input_plain s hin] at he
  exact ⟨_, he, rfl, complete_success_flags _⟩

/-- Settles O19: as for HASH128, with the bytes stored in a usable caller's secret. -/
theorem hash128SDeliversCallerSecretDigest : Obligations.Hash128SDeliversCallerSecretDigest := by
  intro s hin hsec
  have he := exec_success .hash128s s hin.duty (errorCode_hash128s s hin hsec)
  rw [resultsOnSuccess, input_plain s hin, callerSecret_plain s hsec] at he
  exact ⟨_, he, rfl, complete_success_flags _⟩

/-- Settles O50: the caller's secret has the bytes of `kSecret` below 192, and a digest reads no secret byte above. -/
theorem defaultSecretInMemoryGivesTheSameDigest : Obligations.DefaultSecretInMemoryGivesTheSameDigest := by
  intro s hin hsec hlen hbytes
  have hagree (k : Nat) (hk : k < 192) : s.callerSecret k = kSecret k := by
    rw [callerSecret_plain s hsec]
    exact hbytes k hk
  have hsame : resultsOnSuccess .hash128s s = resultsOnSuccess .hash128 s := by
    rw [resultsOnSuccess, resultsOnSuccess, hlen]
    exact (digestDependsOnlyOnItsBuffers .scalar s.input s.input s.callerSecret kSecret _ 192 192 s.latch.seed
      fun _ _ => rfl).1 (by decide) hagree
  exact ⟨_, _, exec_success .hash128s s hin.duty (errorCode_hash128s s hin hsec),
    exec_success .hash128 s hin.duty (errorCode_hash128 s hin), congrArg Prod.fst hsame, congrArg Prod.snd hsame⟩

/-- The lanes of the derived secret with the subtraction written out (44_secret_and_backends.md R220). -/
theorem derivedLane_eq (seed : Word) (j : Nat) :
    derivedLane seed j = if j % 2 = 0 then le64 kSecret (8 * j) + seed else le64 kSecret (8 * j) - seed := by
  rw [derivedLane, BitVec.zero_sub, ← BitVec.sub_eq_add_neg]

/-- Settles O20: the bytes of WR are those of the derived lanes, and a DERIVE delivers the results it found. -/
theorem deriveWritesTheDerivedSecret : Obligations.DeriveWritesTheDerivedSecret := by
  intro s hwf hw
  have he := exec_success .derive s hw.duty (errorCode_derive s hw)
  refine ⟨_, he, fun k hk hblock => ?_, ⟨rfl, rfl⟩, complete_success_flags _⟩
  rw [exec_derive_read s _ he hwf hw hk hblock, State.derivedSecret, secretAt_deriveSecret _ _ hk, derivedLane_eq]

/-! Equal latches, bytes and answers (R271). -/

/-- A command has no error exactly when every check passes. -/
theorem commandCode_none_iff (p : Platform) (l : Latch) (i : Instr) :
    commandCode p l i = .none ↔ secretTooShort l i = false ∧ (∀ r ∈ declaredRanges l i, rangeFits p r) ∧
      (∀ r ∈ readRanges l i, allReadOK p r) ∧ ∀ r ∈ writeRanges l i, allWriteOK p r := by
  simp only [← inRange_iff, ← rangeReadOK_iff, ← rangeWriteOK_iff, ← List.all_eq_true]
  unfold commandCode
  simp only [Bool.not_eq_true']
  split_ifs with hshort hrange hread hwrite
  · simp [hshort]
  · simp [hrange]
  · simp [hread]
  · simp [hwrite]
  · simp only [Bool.not_eq_true, Bool.not_eq_false] at hshort hrange hread hwrite
    simp [hshort, hrange, hread, hwrite]

/-- The checks see of the platform its address width and its answers on the declared ranges. -/
theorem commandCode_congr {p q : Platform} (l : Latch) (i : Instr) (hwidth : q.addrWidth = p.addrWidth)
    (hread : ∀ r ∈ readRanges l i, ∀ a, r.contains a = true → q.readOK a = p.readOK a)
    (hwrite : ∀ r ∈ writeRanges l i, ∀ a, r.contains a = true → q.writeOK a = p.writeOK a) :
    commandCode q l i = commandCode p l i := by
  have hfits : inRange q = inRange p := by
    funext r
    rw [inRange, inRange, Platform.addrLimit, Platform.addrLimit, hwidth]
  have hreads : (readRanges l i).all (rangeReadOK q) = (readRanges l i).all (rangeReadOK p) := by
    rw [Bool.eq_iff_iff]
    simp only [List.all_eq_true, rangeReadOK_iff, allReadOK]
    exact forall₄_congr fun r hr a ha => by rw [hread r hr a ha]
  have hwrites : (writeRanges l i).all (rangeWriteOK q) = (writeRanges l i).all (rangeWriteOK p) := by
    rw [Bool.eq_iff_iff]
    simp only [List.all_eq_true, rangeWriteOK_iff, allWriteOK]
    exact forall₄_congr fun r hr a ha => by rw [hwrite r hr a ha]
  rw [commandCode, commandCode, hfits, hreads, hwrites]

/-- No check looks at the backend. -/
theorem commandCode_backend (p : Platform) (l : Latch) (b : Backend) (i : Instr) :
    commandCode p { l with backend := b } i = commandCode p l i := by
  cases i <;> rfl

/-- The buffers two engines see in a range of plain memory agree below its size where the bytes stored do. -/
theorem rangeByte_agree {s u : State} {r : Region} (free free' : Nat → Byte)
    (h : ∀ a, r.contains a = true → u.platform.volatile a = false ∧ s.platform.volatile a = false ∧
      Memory.read u.mem a = Memory.read s.mem a) (k : Nat) (hk : k < r.size) :
    u.rangeByte r free k = s.rangeByte r free' k := by
  rw [rangeByte_plain u r free fun a ha => (h a ha).1, rangeByte_plain s r free' fun a ha => (h a ha).2.1]
  exact (h _ ((Region.contains_iff _ _).2 ⟨Nat.le_add_right _ _, Nat.add_lt_add_left hk _⟩)).2.2

/-- The digest of a hash command follows from the latch and the bytes of its read ranges. -/
theorem resultsOnSuccess_congr (i : Instr) (s u : State) (b : Backend) (hi : i ≠ .derive)
    (hlatch : u.latch = { s.latch with backend := b }) (hc : s.errorCode i = .none)
    (hread : ∀ r ∈ readRanges s.latch i, ∀ a, r.contains a = true → u.platform.volatile a = false ∧
      s.platform.volatile a = false ∧ Memory.read u.mem a = Memory.read s.mem a) :
    resultsOnSuccess i u = resultsOnSuccess i s := by
  have hinput (hr : inputRange s.latch ∈ readRanges s.latch i) (k : Nat) (hk : k < s.latch.len.toNat) :
      u.input k = s.input k := by
    rw [State.input, hlatch]
    exact rangeByte_agree _ _ (hread _ hr) k hk
  cases i with
  | hash64 =>
    simp only [resultsOnSuccess, hlatch, h64_congr (hinput (by simp [readRanges]))]
  | hash128 =>
    simp only [resultsOnSuccess, hlatch]
    exact (digestDependsOnlyOnItsBuffers _ _ _ kSecret kSecret _ 192 192 _ (hinput (by simp [readRanges]))).1
      (by decide) fun _ _ => rfl
  | hash128s =>
    have hsecret (k : Nat) (hk : k < s.latch.seclen.toNat) : u.callerSecret k = s.callerSecret k := by
      rw [State.callerSecret, hlatch]
      exact rangeByte_agree (r := secretRange s.latch) _ _ (hread _ (by simp [readRanges])) k hk
    have hlong : secretTooShort s.latch .hash128s = false := ((commandCode_none_iff _ _ _).1 hc).1
    simp only [resultsOnSuccess, hlatch]
    exact (digestDependsOnlyOnItsBuffers _ _ _ _ _ _ s.latch.seclen.toNat 0 _ (hinput (by simp [readRanges]))).1
      (Nat.le_of_not_lt (of_decide_eq_false hlong)) hsecret
  | derive => exact absurd rfl hi

/-- A DERIVE without error found its WR ready. -/
theorem windowReady_of_errorCode (s : State) (hd : s.dutyBroken = false) (hc : s.errorCode .derive = .none) :
    s.WindowReady := by
  obtain ⟨-, hfits, -, hwrite⟩ := (commandCode_none_iff _ _ _).1 hc
  exact ⟨hd, hfits _ (by simp [declaredRanges, writeRanges]), hwrite _ (by simp [writeRanges])⟩

/-- Settles O51: the codes by the checks, the digests by the buffers, and the bytes of a DERIVE by the seed. -/
theorem completionsArePure : Obligations.CompletionsArePure := by
  intro i s u b hds hdu hws hwu hlatch hwidth hread hwrite
  have hcode : u.errorCode i = s.errorCode i := by
    rw [State.errorCode, hlatch, commandCode_backend]
    exact commandCode_congr _ _ hwidth (fun r hr a ha => (hread r hr a ha).1) hwrite
  obtain ⟨_, _, hs, -⟩ := exec_completes i s
  obtain ⟨_, _, hu, -⟩ := exec_completes i u
  refine ⟨_, _, hs, hu, hcode, congrArg (· != ErrorCode.none) hcode, fun hi hok => ?_, ?_⟩
  · have hsame := resultsOnSuccess_congr i s u b hi hlatch hok fun r hr a ha => (hread r hr a ha).2
    rw [← exec_success_results i u _ hu hdu (hcode.trans hok), ← exec_success_results i s _ hs hds hok] at hsame
    exact Prod.mk.inj hsame
  · rintro rfl hok a ha hbs hbu
    obtain ⟨k, rfl⟩ := Nat.exists_eq_add_of_le ((Region.contains_iff _ _).1 ha).1
    have hk : k < 192 := Nat.lt_of_add_lt_add_left ((Region.contains_iff _ _).1 ha).2
    have hdst : u.latch.dst = s.latch.dst := by rw [hlatch]
    have hsecret : u.derivedSecret = s.derivedSecret := by
      rw [derivedSecret_eq_scalar, derivedSecret_eq_scalar, hlatch]
    have hreadS := exec_derive_read s _ hs hws (windowReady_of_errorCode s hds hok) hk hbs
    have hreadU := exec_derive_read u _ hu hwu (windowReady_of_errorCode u hdu (hcode.trans hok)) hk (hdst ▸ hbu)
    rw [hdst, hsecret] at hreadU
    exact hreadU.trans hreadS.symm

end Sys2Proof.Machine
end

section
/-! PROOF. Errors and the interrupt (60_exceptions.md R290-R305): the code of a command by its checks, what a completion with
an error leaves, OVR, the interrupt enable, and the accesses the register block refuses. -/

namespace Sys2Proof.Machine

open Sys2Proof

/-! The checks (R291). -/

theorem secretTooShort_iff (l : Latch) (i : Instr) :
    secretTooShort l i = true ↔ i = .hash128s ∧ l.seclen.toNat < 136 := by
  cases i with
  | hash64 | hash128 | derive => simp [secretTooShort]
  | hash128s => exact ⟨fun h => ⟨rfl, of_decide_eq_true h⟩, fun h => decide_eq_true h.2⟩

/-- A check fails over a list of ranges exactly when it fails on one of them. -/
theorem all_ranges_eq_false_iff {check : Region → Bool} {P : Region → Prop} (h : ∀ r, check r = true ↔ P r)
    (rs : List Region) : rs.all check = false ↔ ∃ r ∈ rs, ¬ P r := by
  simp [← h]

/-- The first check: a short secret. -/
theorem commandCode_of_short {p : Platform} {l : Latch} {i : Instr} (h : i = .hash128s ∧ l.seclen.toNat < 136) :
    commandCode p l i = .secretTooShort := by
  rw [commandCode, if_pos ((secretTooShort_iff l i).2 h)]

/-- RANGE: the secret is no shorter than 136 bytes, and a declared range ends outside the address space. -/
theorem commandCode_range_iff (p : Platform) (l : Latch) (i : Instr) :
    commandCode p l i = .range ↔ ¬ (i = .hash128s ∧ l.seclen.toNat < 136) ∧
      ∃ r ∈ declaredRanges l i, ¬ rangeFits p r := by
  rw [← secretTooShort_iff, ← all_ranges_eq_false_iff (inRange_iff p), commandCode]
  split_ifs <;> simp_all

/-- READ_FAULT: the checks before it pass, and a byte of a read range is not answered. -/
theorem commandCode_readFault_iff (p : Platform) (l : Latch) (i : Instr) :
    commandCode p l i = .readFault ↔ ¬ (i = .hash128s ∧ l.seclen.toNat < 136) ∧
      (∀ r ∈ declaredRanges l i, rangeFits p r) ∧ ∃ r ∈ readRanges l i, ¬ allReadOK p r := by
  rw [← secretTooShort_iff, ← all_ranges_eq_false_iff (rangeReadOK_iff p), commandCode]
  simp only [← inRange_iff, ← List.all_eq_true]
  split_ifs <;> simp_all

/-- WRITE_FAULT: the checks before it pass, and a byte of a write range is not answered. -/
theorem commandCode_writeFault_iff (p : Platform) (l : Latch) (i : Instr) :
    commandCode p l i = .writeFault ↔ ¬ (i = .hash128s ∧ l.seclen.toNat < 136) ∧
      (∀ r ∈ declaredRanges l i, rangeFits p r) ∧ (∀ r ∈ readRanges l i, allReadOK p r) ∧
      ∃ r ∈ writeRanges l i, ¬ allWriteOK p r := by
  rw [← secretTooShort_iff, ← all_ranges_eq_false_iff (rangeWriteOK_iff p), commandCode]
  simp only [← inRange_iff, ← rangeReadOK_iff, ← List.all_eq_true]
  split_ifs <;> simp_all

/-- STATUS, the phase and IRQ after any completion (R262, R297): DONE is set, so IRQ is IE. -/
theorem complete_flags (s : State) (c : ErrorCode) :
    (s.complete c).status = ⟨true, c != .none, s.status.ovr, c, some s.latch.backend⟩ ∧
    (s.complete c).phase = .idle ∧ (s.complete c).irq = s.ctrl.ie :=
  ⟨rfl, rfl, Bool.and_true _⟩

/-- What a command reports: the code of its checks, with ERR set on an error, and IRQ alike on both. -/
theorem exec_reports (i : Instr) (s : State) :
    ∃ t, exec i s = .next t ∧ t.status.errcode = s.errorCode i ∧ t.status.err = (s.errorCode i != .none) ∧
      t.irq = s.ctrl.ie := by
  obtain ⟨lo, hi, he, -⟩ := exec_completes i s
  exact ⟨_, he, rfl, rfl, (complete_flags _ _).2.2⟩

/-- Settles O23: the checks in their order, each failing or passing. -/
theorem firstFailingCheckGivesTheCode : Obligations.FirstFailingCheckGivesTheCode := by
  refine ⟨fun i s => ?_, fun s r hb hf => ⟨_, engineTurn_illegal s r hb hf, rfl⟩⟩
  obtain ⟨t, he, hcode, -⟩ := exec_reports i s
  refine ⟨t, he, ?_⟩
  rw [hcode, State.errorCode]
  by_cases hshort : i = .hash128s ∧ s.latch.seclen.toNat < 136
  · exact .inl ⟨hshort.1, hshort.2, commandCode_of_short hshort⟩
  refine .inr ⟨hshort, ?_⟩
  by_cases hfits : ∀ r ∈ declaredRanges s.latch i, rangeFits s.platform r
  case neg =>
    have hfail : ∃ r ∈ declaredRanges s.latch i, ¬ rangeFits s.platform r := by simpa using hfits
    exact .inl ⟨hfail, (commandCode_range_iff _ _ _).2 ⟨hshort, hfail⟩⟩
  refine .inr ⟨hfits, ?_⟩
  by_cases hread : ∀ r ∈ readRanges s.latch i, allReadOK s.platform r
  case neg =>
    have hfail : ∃ r ∈ readRanges s.latch i, ¬ allReadOK s.platform r := by simpa using hread
    exact .inl ⟨hfail, (commandCode_readFault_iff _ _ _).2 ⟨hshort, hfits, hfail⟩⟩
  refine .inr ⟨hread, ?_⟩
  by_cases hwrite : ∀ r ∈ writeRanges s.latch i, allWriteOK s.platform r
  case neg =>
    have hfail : ∃ r ∈ writeRanges s.latch i, ¬ allWriteOK s.platform r := by simpa using hwrite
    exact .inl ⟨hfail, (commandCode_writeFault_iff _ _ _).2 ⟨hshort, hfits, hread, hfail⟩⟩
  rw [← secretTooShort_iff, Bool.not_eq_true] at hshort
  exact .inr ⟨hwrite, (commandCode_none_iff _ _ _).2 ⟨hshort, hfits, hread, hwrite⟩⟩

/-! RANGE (R294). -/

theorem not_rangeFits_iff (p : Platform) (r : Region) :
    ¬ rangeFits p r ↔ 0 < r.size ∧ 2 ^ p.addrWidth < r.start + r.size := by
  rw [rangeFits, not_or, Nat.not_le, Nat.pos_iff_ne_zero, Platform.addrLimit]

/-- RANGE as a command reports it, with the sum of each declared range. -/
theorem exec_range_iff (i : Instr) (s : State) :
    ∃ t, exec i s = .next t ∧ (t.status.errcode = .range ↔ ¬ (i = .hash128s ∧ s.latch.seclen.toNat < 136) ∧
      ∃ r ∈ declaredRanges s.latch i, 0 < r.size ∧ 2 ^ s.platform.addrWidth < r.start + r.size) := by
  obtain ⟨t, he, ht, -⟩ := exec_reports i s
  exact ⟨t, he, by rw [ht, State.errorCode, commandCode_range_iff]; simp only [not_rangeFits_iff]⟩

/-- Settles O24: the declared ranges of each command, of which those of a secret and of a DERIVE are never empty. -/
theorem rangeErrorIsAnExactBound : Obligations.RangeErrorIsAnExactBound := by
  refine ⟨fun s i hi => ?_, fun s hlong => ?_, fun s => ?_, fun p hp => ?_, rfl⟩
  · obtain ⟨t, he, ht⟩ := exec_range_iff i s
    refine ⟨t, he, ht.trans ?_⟩
    rcases hi with rfl | rfl <;> simp [declaredRanges, readRanges, writeRanges, inputRange]
  · obtain ⟨t, he, ht⟩ := exec_range_iff .hash128s s
    refine ⟨t, he, ht.trans ?_⟩
    have hpos : 0 < s.latch.seclen.toNat := by omega
    simp [declaredRanges, readRanges, writeRanges, inputRange, secretRange, hlong, hpos]
  · obtain ⟨t, he, ht⟩ := exec_range_iff .derive s
    refine ⟨t, he, ht.trans ?_⟩
    simp [declaredRanges, readRanges, writeRanges, writeRange, secretDefaultSize]
  · rw [not_rangeFits_iff, rangeFits, Platform.addrLimit, hp]
    exact ⟨.inr (by decide), by decide, by decide⟩

/-! SECRET_TOO_SHORT, READ_FAULT and WRITE_FAULT (R293, R295, R296). -/

/-- Settles O25: no other check is made, and a hash command writes no memory. -/
theorem shortSecretIsReportedFirst : Obligations.ShortSecretIsReportedFirst := by
  intro s hshort
  obtain ⟨lo, hi, he, hresults⟩ := exec_completes .hash128s s
  have hcode : s.errorCode .hash128s = .secretTooShort := commandCode_of_short ⟨rfl, hshort⟩
  rw [hcode] at he hresults
  exact ⟨_, he, rfl, rfl, rfl, rfl, fun hd => hresults hd (.inl (by decide))⟩

/-- Settles O26: the byte lies in a read range; a DERIVE has none. -/
theorem unreadableByteIsAReadFault : Obligations.UnreadableByteIsAReadFault := by
  refine ⟨fun s i a hi hlong hfits ha hmem => ?_, fun s => ?_⟩
  · have hread : ∃ r ∈ readRanges s.latch i, r.contains a = true := by
      rcases hmem with hin | ⟨rfl, hsec⟩
      · refine ⟨_, ?_, hin⟩
        cases i <;> simp [readRanges] at hi ⊢
      · exact ⟨_, by simp [readRanges], hsec⟩
    obtain ⟨r, hr, hra⟩ := hread
    have hbad : ¬ allReadOK s.platform r := fun h => by simp [h a hra] at ha
    have hcode : s.errorCode i = .readFault :=
      (commandCode_readFault_iff _ _ _).2 ⟨fun hs => absurd (hlong hs.1) (Nat.not_le.2 hs.2), hfits, r, hr, hbad⟩
    obtain ⟨t, he, ht, herr, -⟩ := exec_reports i s
    rw [hcode] at ht herr
    exact ⟨t, he, ht, congrArg errorByte ht, herr⟩
  · obtain ⟨t, he, ht, -⟩ := exec_reports .derive s
    refine ⟨t, he, fun hcode => ?_⟩
    obtain ⟨-, -, r, hr, -⟩ := (commandCode_readFault_iff _ _ _).1 (ht.symm.trans hcode)
    simp [readRanges] at hr

/-- Under the duty the bytes a WRITE_FAULT leaves in WR are the old ones or those of the draw (R296). -/
theorem memoryAfter_writeFault_read (s : State) (k : Nat) (hwf : Memory.wf s.mem) (hd : s.dutyBroken = false)
    (hc : s.errorCode .derive = .writeFault) :
    Memory.read (memoryAfter .derive s) (s.latch.dst.toNat + k) = Memory.read s.mem (s.latch.dst.toNat + k) ∨
    Memory.read (memoryAfter .derive s) (s.latch.dst.toNat + k) = s.faultedByte k := by
  have hmem : memoryAfter .derive s = (s.writeWindow s.faultedByte).mem := by
    simp [memoryAfter, State.deriveWrites, hd, hc]
  rw [hmem, State.writeWindow_mem, busWriteBytes_read _ _ _ _ _ _ hwf, Nat.add_sub_cancel_left]
  split_ifs
  · exact .inr rfl
  · exact .inl rfl

/-- Where WriteOK holds, the draw is between the old byte and the derived one. -/
theorem faultedByte_writable (s : State) (k : Nat) (hd : s.dutyBroken = false)
    (hw : s.platform.writeOK (s.latch.dst.toNat + k) = true) :
    s.faultedByte k = Memory.read s.mem (s.latch.dst.toNat + k) ∨
    s.faultedByte k = secretAt (deriveSecretScalar s.latch.seed) k := by
  have hdraw : s.faultedByte k = s.inFlightByte k := by simp [State.faultedByte, State.inFlightByte, hw, hd]
  rw [hdraw]
  exact inFlightByte_cases s k hd

/-- Settles O27: every check before WRITE_FAULT passes, and each byte of WR is the old one or drawn. -/
theorem writeFaultLeavesOldOrDerivedBytes : Obligations.WriteFaultLeavesOldOrDerivedBytes := by
  intro s a hwf hd hfits ha hbad
  have hcode : s.errorCode .derive = .writeFault := by
    refine (commandCode_writeFault_iff _ _ _).2 ⟨by simp, ?_, by simp [readRanges], writeRange s.latch, ?_, fun h => ?_⟩
    · simpa [declaredRanges, readRanges, writeRanges] using hfits
    · simp [writeRanges]
    · simp [h a ha] at hbad
  obtain ⟨lo, hi, he, -⟩ := exec_completes .derive s
  refine ⟨_, he, hcode, congrArg errorByte hcode, fun k _ hw => ?_⟩
  rcases memoryAfter_writeFault_read s k hwf hd hcode with hold | hdrawn
  · exact .inl hold
  · rw [State.complete_mem, hdrawn]
    exact faultedByte_writable s k hd hw

/-! What an error leaves unchanged (R297). -/

/-- Under the duty a command that fails otherwise than by WRITE_FAULT leaves memory. -/
theorem memoryAfter_error (i : Instr) (s : State) (hd : s.dutyBroken = false) (hc : s.errorCode i ≠ .none)
    (hw : s.errorCode i ≠ .writeFault) : memoryAfter i s = s.mem := by
  cases i with
  | hash64 | hash128 | hash128s => rfl
  | derive =>
    simp only [memoryAfter, State.deriveWrites, hd]
    cases hcode : s.errorCode .derive with
    | none => exact absurd hcode hc
    | writeFault => exact absurd hcode hw
    | illegalCmd | range | secretTooShort | readFault => rfl

/-- Settles O28: a completion that delivers nothing, whose memory is bounded by the code and by WR. -/
theorem errorCompletionChangesOnlyStatus : Obligations.ErrorCompletionChangesOnlyStatus := by
  refine ⟨fun i s hd hc hwf => ?_, fun s => ?_⟩
  · obtain ⟨lo, hi, he, hresults⟩ := exec_completes i s
    obtain ⟨hstatus, hphase, hirq⟩ :=
      complete_flags { s with mem := memoryAfter i s, resultLo := lo, resultHi := hi } (s.errorCode i)
    rw [bne_iff_ne.2 hc] at hstatus
    exact ⟨_, he, hstatus, hphase, hirq, hresults hd (.inl hc), ⟨rfl, rfl, rfl, rfl, rfl, rfl, rfl⟩,
      fun hw a => congrArg (Memory.read · a) (memoryAfter_error i s hd hc hw),
      fun a ha => memoryAfter_outside i s hwf a fun _ => ha⟩
  · obtain ⟨hstatus, hphase, hirq⟩ := complete_flags s .illegalCmd
    exact ⟨_, rfl, hstatus, hphase, hirq, ⟨rfl, rfl⟩, ⟨rfl, rfl, rfl, rfl, rfl, rfl, rfl⟩, fun _ => rfl⟩

/-! The interrupt (R300). -/

/-- Settles O16: a CTRL write recomputes IRQ from the new IE and the old DONE, and every completion sets DONE. -/
theorem enableBitMasksTheInterrupt : Obligations.EnableBitMasksTheInterrupt := by
  refine ⟨fun s w => ?_, fun s i => ?_, fun s => ⟨_, rfl, (complete_flags s _).2.2⟩⟩
  · have hirq : (s.writeReg .ctrl w).irq = (w.getLsbD 8 && s.status.done) := rfl
    exact ⟨rfl, fun hoff => by rw [hirq, hoff, Bool.false_and], fun hon hdone => by rw [hirq, hon, hdone, Bool.and_true]⟩
  · obtain ⟨t, he, -, -, hirq⟩ := exec_reports i s
    exact ⟨t, he, hirq⟩

/-! OVR (R304). -/

/-- A register write sets OVR if it is a CMD write while BUSY, clears it if it writes 1 to STATUS bit 3, and else
leaves it. -/
theorem writeReg_ovr (s : State) (r : Reg) (w : Word) :
    (s.writeReg r w).status.ovr =
      if r = .cmd then s.status.ovr || s.phase == .busy
      else if r = .status then s.status.ovr && !w.getLsbD 3 else s.status.ovr := by
  cases r with
  | cmd =>
    simp only [State.writeReg, State.writeCmd]
    cases s.phase with
    | idle => exact (Bool.or_false _).symm
    | busy => exact (Bool.or_true _).symm
  | id | caps | ctrl | status | srcAddr | len | seed | secretAddr | secretLen | dstAddr | resultLo | resultHi | reserved =>
    rfl

/-- A host's write to a register is what its turn does to OVR. -/
theorem step_ovr_of_hostWrites (s t : State) (r : Reg) (w : Word) (hstep : step s = .next t) (hw : s.HostWrites r w) :
    t.status.ovr = (s.writeReg r w).status.ovr := by
  obtain ⟨n, h, addr, bytes, rest, hn, hh, ho, htarget, rfl⟩ := hw
  obtain rfl : s.popTurn.hostStep n = t := Host.Outcome.next.inj ((step_host s n hn).symm.trans hstep)
  rw [hostStep_register s.popTurn n h addr bytes rest r hh ho htarget, State.putHost_status, writeReg_ovr, writeReg_ovr]
  rfl

/-- OVR after a step: 0 after a reset, as a host's register write leaves it, or as before. -/
theorem step_ovr_cases (s t : State) (hstep : step s = .next t) :
    (s.nextTurn = .reset ∧ t.status.ovr = false) ∨ (∃ r w, s.HostWrites r w) ∨ t.status.ovr = s.status.ovr := by
  rcases step_inversion s t hstep with
    ⟨n, hn, rfl⟩ | ⟨hn, rfl⟩ | ⟨-, -, rfl⟩ | ⟨-, -, -, rfl⟩ | ⟨-, -, i, -, he⟩
  · rcases hostStep_cases s.popTurn n with
      ⟨_, _, ht⟩ | ⟨h, addr, bytes, rest, r, _, hh, ho, htarget, -⟩ | ⟨_, _, _, _, _, -, -, -, -, ht⟩
    · exact .inr (.inr (ht ▸ rfl))
    · exact .inr (.inl ⟨r, _, n, h, addr, bytes, rest, hn, hh, ho, htarget, rfl⟩)
    · exact .inr (.inr (ht ▸ rfl))
  · exact .inl ⟨hn, rfl⟩
  · exact .inr (.inr rfl)
  · exact .inr (.inr rfl)
  · obtain ⟨_, _, rfl, -⟩ := exec_inversion i _ t he
    exact .inr (.inr rfl)

/-- Settles O33: of the turns that could change OVR, the register writes that do. -/
theorem overrunIsStickyUntilAcknowledged : Obligations.OverrunIsStickyUntilAcknowledged := by
  intro s t hstep
  refine ⟨fun h0 h1 => ?_, fun h1 h0 => ?_, fun w hw h1 => ?_, fun w hw hbit => ?_, fun hn => ?_⟩
  · rcases step_ovr_cases s t hstep with ⟨-, hr⟩ | ⟨r, w, hw⟩ | hsame
    · simp [hr] at h1
    · rw [step_ovr_of_hostWrites s t r w hstep hw, writeReg_ovr, h0] at h1
      split_ifs at h1 with hcmd
      · subst hcmd
        exact ⟨by simpa using h1, w, hw⟩
      · simp at h1
    · simp [hsame, h0] at h1
  · rcases step_ovr_cases s t hstep with ⟨hn, -⟩ | ⟨r, w, hw⟩ | hsame
    · exact .inl hn
    · rw [step_ovr_of_hostWrites s t r w hstep hw, writeReg_ovr, h1] at h0
      split_ifs at h0 with hcmd hstatus
      · simp at h0
      · subst hstatus
        exact .inr ⟨w, by simpa using h0, hw⟩
    · simp [hsame, h1] at h0
  · rw [step_ovr_of_hostWrites s t _ w hstep hw, writeReg_ovr, if_pos rfl, h1, Bool.true_or]
  · rw [step_ovr_of_hostWrites s t _ w hstep hw, writeReg_ovr]
    simp [hbit]
  · rw [step_reset s hn] at hstep
    obtain rfl := Host.Outcome.next.inj hstep
    rfl

/-! Refused accesses (R305, 10_state.md R22). -/

/-- An access of a byte or more that touches the block, but for an aligned 64-bit one inside it, is refused. -/
theorem accessTarget_refused (p : Platform) (addr : Word) (n : Nat) (hn : 0 < n) (hlow : p.base.toNat < addr.toNat + n)
    (hhigh : addr.toNat < p.base.toNat + 256)
    (hbad : ¬ (n = 8 ∧ p.base.toNat ≤ addr.toNat ∧ 8 ∣ addr.toNat - p.base.toNat)) :
    accessTarget p addr n = .refused := by
  have hmeets : (accessRegion addr n).meets p.block = true := by
    simp [Region.meets, accessRegion, Platform.block, hn, hlow, hhigh]
  have hslot : ¬ (n = 8 ∧ p.block.contains addr.toNat ∧ (addr.toNat - p.block.start) % 8 = 0) :=
    fun ⟨h8, hin, hmod⟩ => hbad ⟨h8, ((Region.contains_iff _ _).1 hin).1, Nat.dvd_of_mod_eq_zero hmod⟩
  rw [accessTarget, if_neg (by simp [hmeets]), if_neg hslot]

/-- Settles O15: either kind of refused access ends in the host's record. -/
theorem refusedAccessIsTheHostsFaultOnly : Obligations.RefusedAccessIsTheHostsFaultOnly := by
  intro s n h addr width bytes rest hh hops hpos hlow hhigh hbad
  have ht := accessTarget_refused s.platform addr width hpos hlow hhigh hbad
  rcases hops with ho | ⟨ho, rfl⟩
  · simp [State.hostStep, hh, ho, State.hostRead, ht, HostAgent.advance, HostAgent.record]
  · simp [State.hostStep, hh, ho, State.hostWrite, ht, HostAgent.advance, HostAgent.record]

end Sys2Proof.Machine
end

section
/-! PROOF. Reset and hazards (70_reset_and_hazards.md): the values reset leaves, what it does to a running command, what a
host cannot do to one, the parameters, and that a running command completes. -/

namespace Sys2Proof.Machine

open Sys2Proof

/-! The values after reset (R331). -/

theorem ctrlWord_reset : ctrlWord ⟨.auto, false⟩ = 0#64 := by decide

theorem statusWord_reset : statusWord false ⟨false, false, false, .none, none⟩ = 0#64 := by decide

/-- The state the machine starts in reads as R331 tables it; CAPS is the platform's. -/
theorem reset_readReg (r : Reg) (hr : r ≠ .caps) :
    State.reset.readReg r = if r = .id then 0x5858483300000001#64 else 0#64 := by
  cases r with
  | caps => exact absurd rfl hr
  | ctrl => exact ctrlWord_reset
  | status => exact statusWord_reset
  | id | cmd | srcAddr | len | seed | secretAddr | secretLen | dstAddr | resultLo | resultHi | reserved => rfl

/-- The reset step leaves the registers of that state, but for CAPS, which it keeps (R333). -/
theorem resetEngine_readReg (s : State) (r : Reg) :
    s.resetEngine.readReg r = if r = .caps then s.readReg .caps else State.reset.readReg r := by
  cases r <;> rfl

/-- A reset while IDLE aborts no DERIVE. -/
theorem abortedMemory_idle (s : State) (hp : s.phase = .idle) : s.abortedMemory = s.mem := by
  simp [State.abortedMemory, State.deriveInFlight, hp]

/-- Settles O38: the reset step and the start read alike, register by register. -/
theorem resetLeavesTheTabledValues : Obligations.ResetLeavesTheTabledValues := by
  intro s t ht
  have hsame : (∀ r, r ≠ .caps → t.readReg r = State.reset.readReg r) ∧ t.phase = .idle ∧ t.irq = false := by
    obtain rfl | rfl : t = s.resetEngine ∨ t = State.reset := by simpa using ht
    · exact ⟨fun r hr => by rw [resetEngine_readReg, if_neg hr], rfl, rfl⟩
    · exact ⟨fun _ _ => rfl, rfl, rfl⟩
  obtain ⟨hread, hphase, hirq⟩ := hsame
  simpa [hread, reset_readReg, hphase, hirq, resetEngine_readReg] using abortedMemory_idle s

/-- Settles O35: memory lists nothing, no command runs and none has completed. -/
theorem resetMeetsTheInvariant : Obligations.ResetMeetsTheInvariant where
  memForm := ⟨List.Pairwise.nil, fun _ hc => absurd hc List.not_mem_nil⟩
  memBound _ hc := absurd hc List.not_mem_nil
  memOutside _ hc := absurd hc List.not_mem_nil
  irqIsLevel := rfl
  errHasCode := rfl
  busyIsClear _ := ⟨rfl, rfl⟩
  usedPresent _ hu := nomatch hu
  latchPresent hb := nomatch hb
  idleDuty _ := rfl

/-! A reset of a running command (R332). -/

/-- Under the duty a byte of WR after a reset is the old one or the derived one. -/
theorem abortedMemory_window (s : State) (k : Nat) (hd : s.dutyBroken = false) (hwf : Memory.wf s.mem) :
    Memory.read s.abortedMemory (s.latch.dst.toNat + k) = Memory.read s.mem (s.latch.dst.toNat + k) ∨
    Memory.read s.abortedMemory (s.latch.dst.toNat + k) = secretAt (deriveSecretScalar s.latch.seed) k := by
  rcases abortedMemory_read s (s.latch.dst.toNat + k) hwf with hold | ⟨-, -, hflight⟩
  · exact .inl hold
  · rw [hflight, Nat.add_sub_cancel_left]
    exact inFlightByte_cases s k hd

/-- Settles O39: a byte a reset changes is in the WR of a running DERIVE, and after it the phase is IDLE, so that a CMD
write issues. -/
theorem resetAbortsTheRunningCommand : Obligations.ResetAbortsTheRunningCommand := by
  refine fun s _ hd hwf => ⟨rfl, rfl, rfl, rfl, fun hf a => ?_, fun a ha => ?_, fun k _ => abortedMemory_window s k hd hwf,
    fun w => ⟨writeReg_cmd_idle _ w rfl, rfl⟩⟩
  · by_contra hne
    obtain ⟨hflight, -⟩ := resetEngine_changes s a hwf hne
    obtain ⟨-, hderive, -⟩ := (deriveInFlight_iff s).1 hflight
    exact hf hderive
  · by_contra hne
    obtain ⟨-, hin⟩ := resetEngine_changes s a hwf hne
    simp [ha] at hin

/-! Hosts and the running command (R337, R341; 46_commands.md R261). -/

/-- STATUS `y` comes from `x` by clearing flags, OVR aside: what a host can do to it while BUSY. -/
structure StatusReg.OnlyCleared (x y : StatusReg) : Prop where
  done : y.done = true → x.done = true
  err : y.err = true → x.err = true
  errcode : y.errcode = x.errcode ∨ y.errcode = .none
  backendUsed : y.backendUsed = x.backendUsed

theorem StatusReg.OnlyCleared.refl (x : StatusReg) : x.OnlyCleared x := ⟨id, id, .inl rfl, rfl⟩

theorem statusOverrun_onlyCleared (x : StatusReg) : x.OnlyCleared (statusOverrun x) := ⟨id, id, .inl rfl, rfl⟩

theorem statusW1C_onlyCleared (x : StatusReg) (w : Word) : x.OnlyCleared (statusW1C x w) where
  done h := (Bool.and_eq_true_iff.1 h).1
  err h := (Bool.and_eq_true_iff.1 h).1
  errcode := by
    rw [statusW1C]
    split_ifs
    · exact .inr rfl
    · exact .inl rfl
  backendUsed := rfl

/-- From `s` to `t` the running command is left alone: L, the phase and STATUS but for cleared flags. -/
structure State.KeepsCommand (s t : State) : Prop where
  latch : t.latch = s.latch
  phase : t.phase = s.phase
  status : s.status.OnlyCleared t.status

/-- Of the register writes while BUSY, one to CMD is dropped and one to STATUS clears flags. -/
theorem writeReg_keepsCommand (s : State) (r : Reg) (w : Word) (hb : s.phase = .busy) :
    s.KeepsCommand (s.writeReg r w) := by
  cases r with
  | cmd => exact writeReg_cmd_busy s w hb ▸ ⟨rfl, rfl, statusOverrun_onlyCleared _⟩
  | status => exact ⟨rfl, rfl, statusW1C_onlyCleared _ w⟩
  | id | caps | ctrl | srcAddr | len | seed | secretAddr | secretLen | dstAddr | resultLo | resultHi | reserved =>
    exact ⟨rfl, rfl, .refl _⟩

theorem hostStep_keepsCommand (s : State) (n : Nat) (hb : s.phase = .busy) : s.KeepsCommand (s.hostStep n) := by
  rcases hostStep_cases s n with ⟨_, _, ht⟩ | ⟨_, _, bytes, _, r, _, -, -, -, ht⟩ | ⟨_, _, _, _, _, -, -, -, -, ht⟩
  · exact ht ▸ ⟨rfl, rfl, .refl _⟩
  · obtain ⟨hlatch, hphase, hstatus⟩ := writeReg_keepsCommand s r (busWord bytes) hb
    exact ht ▸ ⟨hlatch, hphase, hstatus⟩
  · exact ht ▸ ⟨rfl, rfl, .refl _⟩

/-- In either phase a host reaches neither the parameters nor the order of turns. -/
theorem hostStep_platform_schedule (s : State) (n : Nat) :
    (s.hostStep n).platform = s.platform ∧ (s.hostStep n).schedule = s.schedule := by
  rcases hostStep_cases s n with ⟨_, _, ht⟩ | ⟨_, _, bytes, _, r, _, -, -, -, ht⟩ | ⟨_, _, _, _, _, -, -, -, -, ht⟩
  · exact ht ▸ ⟨rfl, rfl⟩
  · obtain ⟨-, hschedule, hplatform, -⟩ := writeReg_agents s r (busWord bytes)
    exact ht ▸ ⟨hplatform, hschedule⟩
  · exact ht ▸ ⟨rfl, rfl⟩

/-- Settles O30: a host's step keeps the command, and in any phase the results and the parameters. -/
theorem hostCannotDisturbTheRunningCommand : Obligations.HostCannotDisturbTheRunningCommand := by
  intro s n hb
  obtain ⟨hlatch, hphase, hstatus⟩ := hostStep_keepsCommand s n hb
  exact ⟨hlatch, hphase.trans hb, hostStep_results s n, (hostStep_platform_schedule s n).1, hstatus.backendUsed, hstatus.done,
    hstatus.err, hstatus.errcode⟩

/-! The parameters (R333). -/

theorem step_platform (s t : State) (hstep : step s = .next t) : t.platform = s.platform := by
  rcases step_inversion s t hstep with
    ⟨n, -, rfl⟩ | ⟨-, rfl⟩ | ⟨-, -, rfl⟩ | ⟨-, -, -, rfl⟩ | ⟨-, -, i, -, he⟩
  · exact (hostStep_platform_schedule s.popTurn n).1
  · rfl
  · rfl
  · rfl
  · obtain ⟨_, _, rfl, -⟩ := exec_inversion i _ t he
    rfl

/-- Settles O37: CAPS and the resolution of AUTO are functions of the parameters, which every turn keeps. -/
theorem parametersNeverChange : Obligations.ParametersNeverChange := by
  intro s t hstep
  have hplatform := step_platform s t hstep
  exact ⟨hplatform, congrArg capsWord hplatform, rfl, fun b => congrArg (effectiveBackend · b) hplatform⟩

/-! Completion in time (R345). -/

/-- The engine's turn while BUSY completes the command, legal or not (46_commands.md R262, R267). -/
theorem engineTurn_completes (s : State) (hb : s.phase = .busy) :
    ∃ t, engineTurn s = .next t ∧ t.phase = .idle ∧ t.status.done = true ∧ t.status.backendUsed = some s.latch.backend := by
  cases hf : s.fetch with
  | command i =>
    obtain ⟨lo, hi, he, -⟩ := exec_completes i s
    exact ⟨_, (engineTurn_command s i hb hf).trans he, rfl, rfl, rfl⟩
  | illegal r => exact ⟨_, engineTurn_illegal s r hb hf, rfl, rfl, rfl⟩

/-- While BUSY the schedule, once used up, gives the engine the turn (log 13). -/
theorem nextTurn_of_used_up (s : State) (hb : s.phase = .busy) (hs : s.schedule = []) : s.nextTurn = .engine := by
  simp [State.nextTurn, State.defaultTurn, hs, hb]

theorem nextTurn_cons (s : State) (a : Turn) (rest : List Turn) (hs : s.schedule = a :: rest) : s.nextTurn = a := by
  simp [State.nextTurn, hs]

theorem run_succ (M : Host.Core) (s s' : M.State) (k : Nat) (h : M.step s = .next s') : M.run (k + 1) s = M.run k s' := by
  rw [Host.Core.run, h]

/-- A run whose first turn is the engine's completes a running command at once. -/
theorem run_one_completes (s : State) (hb : s.phase = .busy) (hn : s.nextTurn = .engine) :
    ∃ t, core.run 1 s = .next t ∧ t.phase = .idle ∧ t.status.done = true ∧
      t.status.backendUsed = some s.latch.backend := by
  obtain ⟨t, he, hdone⟩ := engineTurn_completes s.popTurn hb
  exact ⟨t, run_succ core s t 0 ((step_engine s hn).trans he), hdone⟩

/-- Settles O40, by induction on the turns scheduled: each is the engine's, which completes the command, or a host's, which
keeps the command running with one turn less before it. -/
theorem everyIssuedCommandCompletes : Obligations.EveryIssuedCommandCompletes := by
  intro s hb hreset
  induction hs : s.schedule generalizing s with
  | nil =>
    obtain ⟨t, hrun, hdone⟩ := run_one_completes s hb (nextTurn_of_used_up s hb hs)
    exact ⟨0, t, Nat.zero_le _, hrun, hdone⟩
  | cons a rest ih =>
    have hn : s.nextTurn = a := nextTurn_cons s a rest hs
    cases a with
    | reset => simp [hs] at hreset
    | engine =>
      obtain ⟨t, hrun, hdone⟩ := run_one_completes s hb hn
      exact ⟨0, t, Nat.zero_le _, hrun, hdone⟩
    | host n =>
      obtain ⟨hlatch, hphase, -⟩ := hostStep_keepsCommand s.popTurn n hb
      have hrest : (s.popTurn.hostStep n).schedule = rest := by
        rw [(hostStep_platform_schedule s.popTurn n).2]
        simp [hs]
      have hnoreset : Turn.reset ∉ rest := fun hmem => hreset (hs ▸ List.mem_cons_of_mem _ hmem)
      obtain ⟨k, t, hk, hrun, hidle, hdone, hused⟩ :=
        ih (s.popTurn.hostStep n) (hphase.trans hb) (hrest ▸ hnoreset) hrest
      exact ⟨k + 1, t, Nat.succ_le_succ hk, (run_succ core s _ (k + 1) (step_host s n hn)).trans hrun, hidle, hdone,
        hused.trans (congrArg (some ·.backend) hlatch)⟩

end Sys2Proof.Machine
end
